-- ==== Sys2Proof/Word.lean ====
section
/-! DEFINITION. The word types of the block: a byte and the 32-bit word of the command and register interface
(spec/00_scope.md R11, spec/20_memory.md R52). -/

namespace Sys2Proof

/-- A byte: "8 bits, with values 0x00-0xFF" (R11). Data bytes, seeds, lengths and checksums are bytes. -/
abbrev Byte := BitVec 8

/-- A 32-bit word: a command word (R80) or a register value (10_state.md section 2). -/
abbrev Word := BitVec 32

/-- A host address: "The host address space is 12 bits wide, byte-addressed" (R50). -/
abbrev Addr := BitVec 12

end Sys2Proof
end

