-- ==== Sys2Proof/Syntax.lean ====
section
/-! DEFINITION. The syntax of the machine: the six commands (spec/opcode_table.json, spec/30_encoding.md R82), the host's
accesses (spec/00_scope.md R13, spec/20_memory.md R50), and the assembler lines (spec/30_encoding.md R86, R87). -/

namespace Sys2Proof

/-- A legal command, one constructor per row of spec/opcode_table.json (R82). An operand field the row marks "ignored" is
no operand: R84 says that the command behaves the same for every value of it (log entry 14). The operands are the 8-bit
fields of R81, so every term is well formed by its type. -/
inductive Instr where
  /-- `NOP` (44_system.md R180). -/
  | nop
  /-- `CHK seed, len, off` (40_checksum.md R102). -/
  | chk (seed len off : Byte)
  /-- `SENC len, cap` (41_stuffing.md R112). -/
  | senc (len cap : Byte)
  /-- `SDEC byte` (41_stuffing.md R114). -/
  | sdec (byte : Byte)
  /-- `FENC len, cap` (42_frame_encoder.md R140). -/
  | fenc (len cap : Byte)
  /-- `DFR byte` (43_deframer.md R150). -/
  | dfr (byte : Byte)
  deriving DecidableEq, Repr

/-- The value of a host write: a number, or a value an earlier host read returned (R86: "the program text may write
`-> name` to name the value read"). `readBack k` names the `k`-th most recent one, `readBack 0` the latest (log entry 6). -/
inductive HostValue where
  | lit (v : Word)
  | readBack (k : Nat)
  deriving DecidableEq, Repr

/-- What the host, or the platform's reset line, does next. A read or a write has a width of `n` bytes (R13); R53 says
which widths do anything. The two reset events are the two edges of the reset input of R210 (log entry 7). -/
inductive HostEvent where
  /-- `MemRead(addr, n)`. -/
  | read (n : Nat) (addr : Addr)
  /-- `MemWrite(addr, n, v)`: the low `8 * n` bits of `v` are transferred (log entry 8). -/
  | write (n : Nat) (addr : Addr) (v : HostValue)
  /-- The reset input is asserted. -/
  | assertReset
  /-- The reset input is released. -/
  | releaseReset
  deriving DecidableEq, Repr

/-- A line of an assembly program (R86) or a pseudo-instruction (R87), its operands as written: numbers that an assembler
still has to check (`AsmLine.wf` in WellFormed.lean). -/
inductive AsmLine where
  | wr8 (addr v : Nat)
  | rd8 (addr : Nat)
  | wr32 (addr v : Nat)
  | rd32 (addr : Nat)
  | nop
  | chk (seed len off : Nat)
  | senc (len cap : Nat)
  | sdec (byte : Nat)
  | fenc (len cap : Nat)
  | dfr (byte : Nat)
  | chk0 (len off : Nat)
  | fencm (len : Nat)
  | sencm (len : Nat)
  | load (addr : Nat) (bytes : List Nat)
  | dfrS (bytes : List Nat)
  | sdecS (bytes : List Nat)
  | copyoi (len : Nat)
  deriving DecidableEq, Repr

end Sys2Proof
end

