-- ==== Sys2Proof/Decode.lean ====
section
/-! DEFINITION. Decoding and encoding of the command word (spec/30_encoding.md part B). -/

namespace Sys2Proof

/-- Why a word is no legal command (R83): the reserved field is not 0, or the opcode is one of 0x6 to 0xF. -/
inductive Illegal where
  /-- `RSV != 0` (R83). Checked first, as R85 does. Safe: the command that results is defined (R181). -/
  | reservedField
  /-- `OP >= 0x6` (R83). Safe, as above. -/
  | reservedOpcode
  deriving DecidableEq, Repr

/-- `OP = w[31:28]` (R80). -/
def opField (w : Word) : BitVec 4 := w.extractLsb' 28 4

/-- `RSV = w[27:24]` (R80). -/
def rsvField (w : Word) : BitVec 4 := w.extractLsb' 24 4

/-- `A = w[23:16]` (R81). -/
def aField (w : Word) : Byte := w.extractLsb' 16 8

/-- `B = w[15:8]` (R81). -/
def bField (w : Word) : Byte := w.extractLsb' 8 8

/-- `C = w[7:0]` (R81). -/
def cField (w : Word) : Byte := w.extractLsb' 0 8

/-- Decoding from the word alone (R85): illegal if `w[27:24] != 0`; else by `w[31:28]`. Total on all 2^32 words. -/
def decode (w : Word) : Except Illegal Instr :=
  if rsvField w ≠ 0 then .error .reservedField
  else
    match (opField w).toNat with
    | 0 => .ok .nop
    | 1 => .ok (.chk (aField w) (bField w) (cField w))
    | 2 => .ok (.senc (bField w) (cField w))
    | 3 => .ok (.sdec (aField w))
    | 4 => .ok (.fenc (bField w) (cField w))
    | 5 => .ok (.dfr (aField w))
    | _ => .error .reservedOpcode

/-- A word from its top byte `{OP, RSV}` and its three operand bytes, the concatenation `{op, a, b, c}` of R86. -/
def packWord (op a b c : Byte) : Word := op ++ a ++ b ++ c

/-- The word an assembler writes for a command (R86): 0 in every ignored field. -/
def encode : Instr → Word
  | .nop => packWord 0x00 0x00 0x00 0x00
  | .chk seed len off => packWord 0x10 seed len off
  | .senc len cap => packWord 0x20 0x00 len cap
  | .sdec b => packWord 0x30 b 0x00 0x00
  | .fenc len cap => packWord 0x40 0x00 len cap
  | .dfr b => packWord 0x50 b 0x00 0x00

/-- The bits of a word that its command reads: all but the fields R82 marks "ignored" for its row. -/
def operandMask : Instr → Word
  | .nop => 0xFF000000
  | .chk _ _ _ => 0xFFFFFFFF
  | .senc _ _ => 0xFF00FFFF
  | .sdec _ => 0xFFFF0000
  | .fenc _ _ => 0xFF00FFFF
  | .dfr _ => 0xFFFF0000

/-- The command the decoder reads from a word given as opcode_table.json numbers its bits. A command is one 32-bit word
(R80), transferred whole (R52), so no byte order enters; bits at and above `nbits` are 0. -/
def decodeTableWord (nbits w : Nat) : Option Instr :=
  match decode (BitVec.ofNat 32 (w % 2 ^ nbits)) with
  | .ok i => some i
  | .error _ => none

end Sys2Proof
end

