-- ==== Sys2Proof/Config.lean ====
section
/-! DEFINITION. What one implementation of the block fixes (spec/00_scope.md R8 to R10), and the free values of the
model (spec/93_implementation_defined.md U2). -/

namespace Sys2Proof

/-- The implementation parameters of R8. "The block is built for one value of each parameter below. A model takes them
as arguments": they are held in `Machine.State` and every meaning reads them from there, so a statement over all states is
a statement over all parameters. R9's constraints are `Params.wf` (WellFormed.lean). -/
structure Params where
  /-- `max_package_size`: the largest frame, the ring capacity and the accumulation capacity, 4 to 127. -/
  N : Nat
  /-- The frame-start sentinel. -/
  MAGIC : Byte
  /-- The stuffing terminator symbol. -/
  END : Byte
  /-- The stuffing escape symbol. -/
  ESC : Byte
  /-- The substitute sent after `ESC` for a data byte equal to `END`. -/
  ESC_END : Byte
  /-- The substitute sent after `ESC` for a data byte equal to `ESC`. -/
  ESC_ESC : Byte
  deriving DecidableEq, Repr

/-- The spec's default of every parameter (the table of R8). The four symbols are the ones R8 marks "from general
knowledge, not in source" (U1, G1). DESIGN CHOICE of the spec, log entry 2. -/
def Params.default : Params where
  N := 64
  MAGIC := 0x55#8
  END := 0xC0#8
  ESC := 0xDB#8
  ESC_END := 0xDC#8
  ESC_ESC := 0xDD#8

/-- `HDR` of R10: the header is magic, size and header checksum. -/
def Config.hdr : Nat := 3

/-- `IBUF_SIZE` and `OBUF_SIZE` of R10. -/
def Config.bufSize : Nat := 256

/-- The four byte buffers of the block (10_state.md R34 to R36). -/
inductive Buf where
  | ibuf
  | obuf
  | acc
  | ring
  deriving DecidableEq, Repr

/-- Which draw the unwritten buffer bytes of a block hold: one for each instance and each reset of it. DESIGN CHOICE (log
entry 4): U2 gives "a draw per byte, fixed at reset", and R63 and R200 let nothing relate the draws of two instances. It is
a name for the model's free values, not the instance identifier that R200 says does not exist: no access shows it. -/
structure Draw where
  /-- Which instance of the system drew. -/
  inst : Nat
  /-- How many times that instance has been reset since the start of the run. -/
  resets : Nat
  deriving DecidableEq, Repr

/-- FREE VALUE (U2, R39; log entries 3 and 4): the byte that index `i` of buffer `b` holds after reset until something
writes it. "A draw per byte, fixed at reset": `draw` names the instance and the reset that drew it, so neither the bytes of
two instances nor those of two resets can be proved equal or different. It has no body: nothing can evaluate it. -/
opaque Config.powerUpByte (draw : Draw) (b : Buf) (i : Nat) : Byte

end Sys2Proof
end

