-- ==== Sys2Proof/Machine/State.lean ====
section
/-! DEFINITION. The state of the block (spec/10_state.md) and its value at reset (R39, spec/70_reset_and_hazards.md
R210). -/

namespace Sys2Proof.Machine

/-- The bytes of one buffer that have been written since reset, as (index, byte) pairs in rising order of index. An index
that is not listed holds no written byte (log entry 3). -/
abbrev Memory := List Host.Cell

/-- The canonical form: the indices strictly rise. Every entry is a byte something wrote, so no entry stands for "not
written", which is what an unlisted index is. -/
def Memory.wf : Memory → Bool
  | [] => true
  | [_] => true
  | (i, _) :: (j, b) :: m => decide (i < j) && Memory.wf ((j, b) :: m)

/-- Every listed index lies below the size of the buffer. -/
def Memory.below (size : Nat) (m : Memory) : Bool := m.all fun c => decide (c.1 < size)

/-- `df_state` (R32): the three states of the de-framer. -/
inductive DfrState where
  /-- "no candidate start" -/
  | searching
  /-- "candidate start found, insufficient bytes for a full header" -/
  | headerWait
  /-- "valid header found, waiting for declared_size total bytes" -/
  | bodyWait
  deriving DecidableEq, Repr

/-- The state of one instance of the block, and the host's side of its port. INVENTORY.md lists every field with its rule
and its reset value. -/
structure State where
  /-- The parameters, hardwired (R8); CFG0 and CFG1 show them (R28). -/
  cfg : Params
  /-- STATUS.ERR (R23): the outcome of the most recent command. -/
  err : BitVec 2
  /-- STATUS.EMITS (R23): datagrams emitted by the most recent DFR command. -/
  emits : Byte
  /-- RESULT (R24). -/
  result : Byte
  /-- `IBUF[0..256)` (R36). -/
  ibuf : Memory
  /-- `OBUF[0..256)` (R36). -/
  obuf : Memory
  /-- `ACC[0..N)` (R35). -/
  acc : Memory
  /-- `RING[0..N)` (R34). -/
  ring : Memory
  /-- `sd_last` (R31): the last byte received by SDEC. -/
  sdLast : Byte
  /-- `sd_pos` (R31): number of bytes in the unfinished message. -/
  sdPos : Byte
  /-- `sd_ready` (R31): size of the message just completed, or 0. -/
  sdReady : Byte
  /-- `df_state` (R32). -/
  dfState : DfrState
  /-- `df_push` (R32): position of the next byte to be written. -/
  dfPush : Byte
  /-- `df_look` (R32): position the magic search resumes from. -/
  dfLook : Byte
  /-- `df_start` (R32): position of the candidate, meaningful only outside SEARCHING. -/
  dfStart : Byte
  /-- The DOUT log (R62): every datagram emitted since reset, oldest first. -/
  dout : List (List Byte)
  /-- The reset input is asserted (R210, R211). -/
  inReset : Bool
  /-- The model's own: what the host does next, oldest first (log entry 1). -/
  host : List HostEvent
  /-- The model's own: the values the host's reads have returned, oldest first (log entry 6). -/
  readLog : List Word
  /-- The model's own: which power-up draw the unwritten bytes hold (log entries 3 and 4). -/
  draw : Draw
  deriving DecidableEq, Repr

/-- No step faults: "The block raises no exception, trap or abort" (R190). The type has no constructor (log entry 16). -/
inductive Fault where
  deriving DecidableEq, Repr

/-- Why a step has no meaning. -/
inductive Refusal where
  /-- Raised by an arm of `exec` for a command without a meaning. No arm raises it. Safe. -/
  | notModelled (mnemonic : String)
  /-- Raised by the host port for a host access while reset is asserted: "The spec does not model a host access made while
  reset is asserted" (R211), treatment `refuse` (U11). Safe: the run stops and nothing is claimed of it. -/
  | hostAccessDuringReset
  deriving DecidableEq, Repr

/-- What one step or one command answers. -/
abbrev Out := Host.Outcome State Fault Refusal

/-- The state right after the release of the reset input of a block built for the parameters `c` (R39), standing alone as
instance 0. `State.resetInstance` (Instances.lean) is the same for any instance of a system (R200). -/
def State.resetWith (c : Params) : State where
  cfg := c
  err := 0
  emits := 0
  result := 0
  ibuf := []
  obuf := []
  acc := []
  ring := []
  sdLast := c.END
  sdPos := 0
  sdReady := 0
  dfState := .searching
  dfPush := 0
  dfLook := 0
  dfStart := 0xFF
  dout := []
  inReset := false
  host := []
  readLog := []
  draw := ⟨0, 0⟩

/-- The machine right after reset, for the spec's default parameters (R8, R39; log entry 2). -/
def State.reset : State := State.resetWith Params.default

end Sys2Proof.Machine
end

