-- ==== Sys2Proof/Machine/Ops.lean ====
section
/-! DEFINITION. The named operations over memory and state: one buffer byte read or written, one state variable written
(`X <- v`, spec/00_scope.md R13), `emit`, `fail` and normal completion (R13, spec/60_exceptions.md R191), and the release
of reset (spec/70_reset_and_hazards.md R210). -/

namespace Sys2Proof.Machine

/-! ## Buffers -/

/-- The byte written at index `i` since reset, if one was. -/
def Memory.get? : Memory → Nat → Option Byte
  | [], _ => none
  | (j, b) :: m, i => if i = j then some b else Memory.get? m i

/-- Write byte `v` at index `i`, keeping the canonical form. -/
def Memory.set : Memory → Nat → Byte → Memory
  | [], i, v => [(i, v)]
  | (j, b) :: m, i, v =>
    if i < j then (i, v) :: (j, b) :: m
    else if i = j then (i, v) :: m
    else (j, b) :: Memory.set m i v

/-- Write the bytes `bs` at `i`, `i + 1`, and so on. -/
def Memory.setRange (m : Memory) (i : Nat) : List Byte → Memory
  | [] => m
  | b :: bs => Memory.setRange (Memory.set m i b) (i + 1) bs

/-- What an index reads as: the byte written there, else the byte drawn for it at reset (U2, R39; log entry 3). -/
def Memory.read (m : Memory) (draw : Draw) (buf : Buf) (i : Nat) : Byte :=
  match Memory.get? m i with
  | some b => b
  | none => Config.powerUpByte draw buf i

/-- `IBUF[i]` (R13). -/
def State.ibufAt (s : State) (i : Nat) : Byte := s.ibuf.read s.draw .ibuf i

/-- `OBUF[i]` (R13). -/
def State.obufAt (s : State) (i : Nat) : Byte := s.obuf.read s.draw .obuf i

/-- `ACC[i]` (R13). -/
def State.accAt (s : State) (i : Nat) : Byte := s.acc.read s.draw .acc i

/-- The ring byte at position `p`: "The byte at position `p` is stored at `RING[p mod N]`" (R32). -/
def State.ringAt (s : State) (p : Nat) : Byte := s.ring.read s.draw .ring (p % s.cfg.N)

/-! ## State variables, `X <- v` (R13) -/

def State.setErr (s : State) (v : BitVec 2) : State := { s with err := v }
def State.setEmits (s : State) (v : Byte) : State := { s with emits := v }
def State.setResult (s : State) (v : Byte) : State := { s with result := v }
def State.setIbuf (s : State) (v : Memory) : State := { s with ibuf := v }
def State.setObuf (s : State) (v : Memory) : State := { s with obuf := v }
def State.setAcc (s : State) (v : Memory) : State := { s with acc := v }
def State.setRing (s : State) (v : Memory) : State := { s with ring := v }
def State.setSdLast (s : State) (v : Byte) : State := { s with sdLast := v }
def State.setSdPos (s : State) (v : Byte) : State := { s with sdPos := v }
def State.setSdReady (s : State) (v : Byte) : State := { s with sdReady := v }
def State.setDfState (s : State) (v : DfrState) : State := { s with dfState := v }
def State.setDfPush (s : State) (v : Byte) : State := { s with dfPush := v }
def State.setDfLook (s : State) (v : Byte) : State := { s with dfLook := v }
def State.setDfStart (s : State) (v : Byte) : State := { s with dfStart := v }
def State.setInReset (s : State) (v : Bool) : State := { s with inReset := v }
def State.setHost (s : State) (v : List HostEvent) : State := { s with host := v }

/-- `emit(d)`: append the datagram to the DOUT log (R13, R62). -/
def State.emit (s : State) (d : List Byte) : State := { s with dout := s.dout ++ [d] }

/-- A host read returned `v`. -/
def State.logRead (s : State) (v : Word) : State := { s with readLog := s.readLog ++ [v] }

/-! ## The end of a command -/

/-- STATUS.ERR code 0: OK (R191). -/
def errOk : BitVec 2 := 0

/-- STATUS.ERR code 1: CAPACITY (R191). -/
def errCapacity : BitVec 2 := 1

/-- STATUS.ERR code 2: ILLEGAL (R191). -/
def errIllegal : BitVec 2 := 2

/-- The end of a command that succeeds: `err <- 0` (R184, R191). -/
def State.succeed (s : State) : State := s.setErr errOk

/-- `fail(code)`: "ends the current command with `STATUS.ERR <- code` ... Nothing else changes" (R191). This is all the
block has in the place of an exception (R190). -/
def State.fail (s : State) (code : BitVec 2) : State := s.setErr code

/-- The capacity failure of the two encoders: `result <- 0`, `fail(1)`, OBUF untouched (R112, R140). -/
def State.failCapacity (s : State) : State := (s.setResult 0).fail errCapacity

/-! ## Reset -/

/-- The release of the reset input: every piece of state takes its value of R39 (R210). The parameters are hardwired (R28).
The unwritten buffer bytes are drawn afresh, by the same instance (U2, log entry 4). The host's own sequence and what it
has read stay with the host. -/
def State.takeReset (s : State) : State :=
  { State.resetWith s.cfg with
    host := s.host
    readLog := s.readLog
    draw := { s.draw with resets := s.draw.resets + 1 } }

end Sys2Proof.Machine
end

