-- ==== Sys2Proof/Machine/Operands.lean ====
section
/-! DEFINITION. The operand forms of the commands: the IBUF ranges the encoders and CHK read (spec/40_checksum.md R102,
spec/41_stuffing.md R112, spec/42_frame_encoder.md R140), the OBUF range they write, and the ring positions of the
de-framer (spec/43_deframer.md R150). Operands are unsigned and sums are exact (spec/00_scope.md R11). -/

namespace Sys2Proof.Machine

/-- `[ IBUF[(off + i) mod 256] for i in 0 .. len-1 ]`: the range CHK reads, wrapping in IBUF (R102). -/
def State.ibufWrap (s : State) (off len : Nat) : List Byte :=
  (List.range len).map fun i => s.ibufAt ((off + i) % Config.bufSize)

/-- `[ IBUF[i] for i in 0 .. len-1 ]`: the source range of SENC and FENC (R112, R140). -/
def State.ibufPrefix (s : State) (len : Nat) : List Byte := (List.range len).map s.ibufAt

/-- `OBUF[i] <- out[i]` for every byte of `out`, and `result <- |out|` (R112, R140). -/
def State.deliver (s : State) (out : List Byte) : State :=
  (s.setObuf (s.obuf.setRange 0 out)).setResult (BitVec.ofNat 8 out.length)

/-- `PMOD`, the modulus of the de-framer's positions: `2N` (R10). -/
def Params.pmod (c : Params) : Nat := 2 * c.N

/-- `(p + 1) mod 2N`. -/
def nextPos (c : Params) (p : Byte) : Byte := BitVec.ofNat 8 ((p.toNat + 1) % Params.pmod c)

/-- `d(a, b) = (b - a) mod 2N` (R150). -/
def dist (c : Params) (a b : Byte) : Nat :=
  (b.toNat + (Params.pmod c - a.toNat % Params.pmod c)) % Params.pmod c

/-- `avail = d(df_start, df_push)`: the number of candidate bytes received (R150). -/
def State.avail (s : State) : Nat := dist s.cfg s.dfStart s.dfPush

/-- `R(k) = RING[(df_start + k) mod N]`: byte `k` of the current candidate (R150). -/
def State.candByte (s : State) (k : Nat) : Byte := s.ringAt (s.dfStart.toNat + k)

/-- `[R(k) for k in a .. a+n-1]`. -/
def State.candBytes (s : State) (a n : Nat) : List Byte := (List.range' a n).map s.candByte

/-- The declared size of the current candidate, `R(1)` (R155). -/
def State.declared (s : State) : Nat := (s.candByte 1).toNat

end Sys2Proof.Machine
end

