-- ==== Sys2Proof/Machine/Checksum.lean ====
section
/-! DEFINITION. The checksum function and the CHK command (spec/40_checksum.md). -/

namespace Sys2Proof.Machine

/-- One step of the fold: `((cs XOR x) + 1) mod 256` (R100). -/
def chkStep (cs x : Byte) : Byte := (cs ^^^ x) + 1

/-- `chk(s, seed)` (R100). -/
def chk : List Byte → Byte → Byte
  | [], seed => seed
  | x :: s, seed => chk s (chkStep seed x)

/-- `CHK seed, len, off` (R102). It cannot fail. -/
def execChk (seed len off : Byte) (s : State) : Out :=
  .next ((s.setResult (chk (s.ibufWrap off.toNat len.toNat) seed)).succeed)

end Sys2Proof.Machine
end

