-- ==== Sys2Proof/Machine/Deframer.lean ====
section
/-! DEFINITION. The frame reassembly state machine and the DFR command (spec/43_deframer.md). -/

namespace Sys2Proof.Machine

/-- Byte intake (R151): `RING[df_push mod N] <- A`, then `df_push <- (df_push + 1) mod 2N`. -/
def State.intake (s : State) (b : Byte) : State :=
  (s.setRing (s.ring.set (s.dfPush.toNat % s.cfg.N) b)).setDfPush (nextPos s.cfg s.dfPush)

/-- The scan of SEARCHING (R153) over the `k` positions from `p` on: the first that holds `MAGIC`. -/
def State.scan (s : State) : Nat → Byte → Option Byte
  | 0, _ => none
  | k + 1, p => if s.ringAt p.toNat = s.cfg.MAGIC then some p else s.scan k (nextPos s.cfg p)

/-- What one pass of the loop of R150 leaves: the state, the datagrams emitted so far in this command, and whether the
loop continues. -/
structure Pass where
  st : State
  count : Nat
  again : Bool
  deriving DecidableEq, Repr

/-- The size bounds of the header, `3 <= R(1) <= N` (R154, R155). -/
def State.sizeOk (s : State) : Bool := decide (3 ≤ s.declared) && decide (s.declared ≤ s.cfg.N)

/-- The header check (R154): checksum and size bounds. -/
def State.headerOk (s : State) : Bool :=
  decide (chk [s.candByte 0, s.candByte 1] 0 = s.candByte 2) && s.sizeOk

/-- The trailing check (R156), never passed by a declared size of 3 (R157):
`chk([R(0), ..., R(S-2)], R(2)) = R(S-1)`. -/
def State.trailerOk (s : State) : Bool :=
  decide (4 ≤ s.declared) &&
    decide (chk (s.candBytes 0 (s.declared - 1)) (s.candByte 2) = s.candByte (s.declared - 1))

/-- The payload of the current candidate, `[R(3), ..., R(S-2)]` (R156). -/
def State.payload (s : State) : List Byte := s.candBytes 3 (s.declared - 4)

/-- The return to SEARCHING one byte past the candidate's start (R158). -/
def State.resume (s : State) : State := (s.setDfLook (nextPos s.cfg s.dfStart)).setDfState .searching

/-- BODY_WAIT (R155 to R158): wait for the declared size, re-validate it, check the trailer, emit or drop, and return to
SEARCHING. -/
def dfrBody (s : State) (count : Nat) : Pass :=
  if s.avail < s.declared then ⟨s, count, false⟩
  else if !s.sizeOk then ⟨s.setDfState .searching, count, false⟩
  else if s.trailerOk then ⟨(s.emit s.payload).resume, count + 1, true⟩
  else ⟨s.resume, count, true⟩

/-- HEADER_WAIT (R154): wait for the three header bytes, then check them; BODY_WAIT runs at once in the same pass. -/
def dfrHeader (s : State) (count : Nat) : Pass :=
  if s.avail < 3 then ⟨s, count, false⟩
  else if s.headerOk then dfrBody (s.setDfState .bodyWait) count
  else ⟨s.setDfState .searching, count, true⟩

/-- A found candidate (R153): `df_start`, `df_look` and the move to HEADER_WAIT. -/
def State.candidate (s : State) (p : Byte) : State :=
  ((s.setDfStart p).setDfLook (nextPos s.cfg p)).setDfState .headerWait

/-- SEARCHING (R153): scan from `df_look` up to, not including, `df_push`. -/
def dfrSearch (s : State) (count : Nat) : Pass :=
  match s.scan (dist s.cfg s.dfLook s.dfPush) s.dfLook with
  | some p => dfrHeader (s.candidate p) count
  | none => ⟨s.setDfLook s.dfPush, count, false⟩

/-- One pass of the loop of R150, from the state it finds. -/
def dfrPass (s : State) (count : Nat) : Pass :=
  match s.dfState with
  | .searching => dfrSearch s count
  | .headerWait => dfrHeader s count
  | .bodyWait => dfrBody s count

/-- The loop of R150 and R152, at most `fuel` passes. -/
def dfrLoop : Nat → State → Nat → Pass
  | 0, s, count => ⟨s, count, false⟩
  | fuel + 1, s, count =>
    let r := dfrPass s count
    if r.again then dfrLoop fuel r.st r.count else r

/-- More passes than any state needs: every pass but the first and the last moves `df_look` closer to `df_push`, which lie
less than `2N` apart. R159 bounds the passes by `N + 1` in the states a run reaches (log entry 9). -/
def dfrFuel (c : Params) : Nat := 2 * c.N + 2

/-- `DFR byte` (R150): intake, exhaustive processing, then `EMITS <- count` (R160) and `err <- 0`. -/
def execDfr (b : Byte) (s : State) : Out :=
  let r := dfrLoop (dfrFuel s.cfg) (s.intake b) 0
  .next ((r.st.setEmits (BitVec.ofNat 8 r.count)).succeed)

end Sys2Proof.Machine
end

