-- ==== Sys2Proof/Machine/FrameEncoder.lean ====
section
/-! DEFINITION. The length-prefixed frame and the FENC command (spec/42_frame_encoder.md, spec/30_encoding.md R70 to
R73). -/

namespace Sys2Proof.Machine

/-- `HCS = chk([MAGIC, S], 0)` (R72). -/
def headerChecksum (c : Params) (size : Byte) : Byte := chk [c.MAGIC, size] 0

/-- The frame around the payload `p` (R70, R140): magic, size, header checksum, payload, and the trailing checksum that
continues the header's chain over every byte before it (R73). -/
def frame (c : Params) (p : List Byte) : List Byte :=
  let size : Byte := BitVec.ofNat 8 (p.length + 4)
  let hcs := headerChecksum c size
  let body := [c.MAGIC, size, hcs] ++ p
  body ++ [chk body hcs]

/-- `FENC len, cap` (R140): CAPACITY when the frame exceeds `N` or the capacity. -/
def execFenc (len cap : Byte) (s : State) : Out :=
  if len.toNat + 4 > s.cfg.N ∨ len.toNat + 4 > cap.toNat then .next s.failCapacity
  else .next ((s.deliver (frame s.cfg (s.ibufPrefix len.toNat))).succeed)

end Sys2Proof.Machine
end

