-- ==== Sys2Proof/Machine/Stuffing.lean ====
section
/-! DEFINITION. The byte-stuffing codec: the stuffing function, SENC and SDEC (spec/41_stuffing.md). -/

namespace Sys2Proof.Machine

/-- `esc(x)`: the wire bytes of one data byte (R75, R111). -/
def escByte (c : Params) (x : Byte) : List Byte :=
  if x = c.END then [c.ESC, c.ESC_END]
  else if x = c.ESC then [c.ESC, c.ESC_ESC]
  else [x]

/-- `stuff(b)` (R111): the leading END, each byte escaped, the trailing END. -/
def stuff (c : Params) (b : List Byte) : List Byte := [c.END] ++ b.flatMap (escByte c) ++ [c.END]

/-- `SENC len, cap` (R112). The capacity check takes the worst case `2*B + 2`, whatever the data. -/
def execSenc (len cap : Byte) (s : State) : Out :=
  if 2 * len.toNat + 2 > cap.toNat then .next s.failCapacity
  else .next ((s.deliver (stuff s.cfg (s.ibufPrefix len.toNat))).succeed)

/-- `Append(v)` (R117): the accumulation restarts at index 0 when it already holds `N` bytes. -/
def State.append (s : State) (v : Byte) : State :=
  let pos : Byte := if s.sdPos.toNat = s.cfg.N then 0 else s.sdPos
  (s.setAcc (s.acc.set pos.toNat v)).setSdPos (pos + 1)

/-- `END` received (R115): a non-empty accumulation becomes ready and is emptied. -/
def State.sdecEnd (s : State) : State :=
  (if s.sdPos = 0 then s else (s.setSdReady s.sdPos).setSdPos 0).setSdLast s.cfg.END

/-- A byte other than `END` received (R116): translated or dropped after a pending escape, else stored unless it is
`ESC`. -/
def State.sdecData (s : State) (b : Byte) : State :=
  (if s.sdLast = s.cfg.ESC then
    if b = s.cfg.ESC_END then s.append s.cfg.END
    else if b = s.cfg.ESC_ESC then s.append s.cfg.ESC
    else s
  else if b = s.cfg.ESC then s
  else s.append b).setSdLast b

/-- `SDEC byte` (R114). Readiness is cleared first (R118). -/
def execSdec (b : Byte) (s : State) : Out :=
  let s0 := s.setSdReady 0
  .next ((if b = s.cfg.END then s0.sdecEnd else s0.sdecData b).succeed)

end Sys2Proof.Machine
end

