-- ==== Sys2Proof/Machine/System.lean ====
section
/-! DEFINITION. The system commands: NOP and the illegal command (spec/44_system.md R180, R181). -/

namespace Sys2Proof.Machine

/-- `NOP` (R180): `err <- 0`, nothing else. -/
def execNop (s : State) : Out := .next s.succeed

/-- The illegal command (R181): `fail(2)`. Not an arm of `exec`: no row of the table stands for it (log entry 13). -/
def execIllegal (s : State) : Out := .next (s.fail errIllegal)

end Sys2Proof.Machine
end

