-- ==== Sys2Proof/Machine/Dispatch.lean ====
section
/-! DEFINITION. The meaning of every command, one arm per constructor (spec/30_encoding.md R82). -/

namespace Sys2Proof.Machine

def exec (i : Instr) (s : State) : Host.Outcome State Fault Refusal :=
  match i with
  | .nop => Sys2Proof.Machine.execNop s
  | .chk seed len off => Sys2Proof.Machine.execChk seed len off s
  | .senc len cap => Sys2Proof.Machine.execSenc len cap s
  | .sdec b => Sys2Proof.Machine.execSdec b s
  | .fenc len cap => Sys2Proof.Machine.execFenc len cap s
  | .dfr b => Sys2Proof.Machine.execDfr b s

end Sys2Proof.Machine
end

