-- ==== Sys2Proof/Machine/Flags.lean ====
section
/-! DEFINITION. The status indications and the host-visible registers (spec/10_state.md R22 to R30): each register's value
computed from the state, since none but ERR, EMITS and RESULT has storage of its own. -/

namespace Sys2Proof.Machine

/-- The code of `df_state` in STATUS.DFR_STATE: SEARCHING = 0, HEADER_WAIT = 1, BODY_WAIT = 2 (R32). -/
def DfrState.code : DfrState → BitVec 2
  | .searching => 0
  | .headerWait => 1
  | .bodyWait => 2

/-- STATUS.SDEC_RDY: "reads `1` when `sd_ready != 0`" (R23). -/
def State.sdecRdy (s : State) : BitVec 1 := if s.sdReady = 0 then 0 else 1

/-- STATUS (R23): EMITS in bits 15:8, DFR_STATE in 4:3, SDEC_RDY in 2, ERR in 1:0. -/
def State.statusReg (s : State) : Word :=
  0#16 ++ s.emits ++ 0#3 ++ s.dfState.code ++ s.sdecRdy ++ s.err

/-- RESULT (R24). -/
def State.resultReg (s : State) : Word := 0#24 ++ s.result

/-- SDEC_SIZE (R25). -/
def State.sdecSizeReg (s : State) : Word := 0#24 ++ s.sdReady

/-- SDEC_STATE (R26): `sd_last` in bits 15:8, `sd_pos` in 7:0. -/
def State.sdecStateReg (s : State) : Word := 0#16 ++ s.sdLast ++ s.sdPos

/-- DFR_POS.START (R27): `df_start`, or 0xFF when SEARCHING. -/
def State.startField (s : State) : Byte :=
  match s.dfState with
  | .searching => 0xFF
  | .headerWait => s.dfStart
  | .bodyWait => s.dfStart

/-- DFR_POS (R27): START in bits 23:16, LOOKUP in 15:8, PUSH in 7:0. -/
def State.dfrPosReg (s : State) : Word := 0#8 ++ s.startField ++ s.dfLook ++ s.dfPush

/-- CFG0 (R28): `HDR` in bits 23:16, `MAGIC` in 15:8, `N` in 7:0. -/
def State.cfg0Reg (s : State) : Word :=
  0#8 ++ BitVec.ofNat 8 Config.hdr ++ s.cfg.MAGIC ++ BitVec.ofNat 8 s.cfg.N

/-- CFG1 (R28): `ESC_ESC`, `ESC_END`, `ESC`, `END` from bit 31 down. -/
def State.cfg1Reg (s : State) : Word := s.cfg.ESC_ESC ++ s.cfg.ESC_END ++ s.cfg.ESC ++ s.cfg.END

/-- The value a host read of register slot `k` returns (R182): CMD reads 0 (R22), slots 8 to 15 are reserved and read 0
(R29). -/
def State.regRead (s : State) : Nat → Word
  | 1 => s.statusReg
  | 2 => s.resultReg
  | 3 => s.sdecSizeReg
  | 4 => s.sdecStateReg
  | 5 => s.dfrPosReg
  | 6 => s.cfg0Reg
  | 7 => s.cfg1Reg
  | _ => 0

end Sys2Proof.Machine
end

