-- ==== Sys2Proof/Machine/HostPort.lean ====
section
/-! DEFINITION. The host port: the address map and the access rules (spec/20_memory.md R50, R53, R55), a CMD write
running the command word (spec/44_system.md R183), and the reset input (spec/70_reset_and_hazards.md R210). -/

namespace Sys2Proof.Machine

/-- The address of CMD, slot 0 (R22). -/
def cmdAddr : Addr := 0x300

/-- A byte the host reads at address `a` (R50): IBUF, OBUF, the ACC window with its first `N` slots backed, and 0 in the
reserved ranges. A byte access to the register range reads 0 (R53). -/
def State.byteRead (s : State) (a : Nat) : Byte :=
  if a < 0x100 then s.ibufAt a
  else if a < 0x200 then s.obufAt (a - 0x100)
  else if a < 0x280 then if a - 0x200 < s.cfg.N then s.accAt (a - 0x200) else 0
  else 0

/-- A 32-bit word the host reads at address `a` (R50, R53): a register at an aligned address of the register range; any
other 32-bit access reads 0. -/
def State.wordRead (s : State) (a : Nat) : Word :=
  if 0x300 ≤ a ∧ a < 0x340 ∧ a % 4 = 0 then s.regRead ((a - 0x300) / 4) else 0

/-- `MemRead(addr, n)`: the value the host gets (R53: "Any other access has no effect and reads as 0"). -/
def State.hostRead (s : State) (n : Nat) (a : Addr) : Word :=
  if n = 1 then (s.byteRead a.toNat).setWidth 32
  else if n = 4 then s.wordRead a.toNat
  else 0

/-- The number a host write carries: as written, or as read before (R86; 0 where the host has read nothing, log entry 6). -/
def State.hostValue (s : State) : HostValue → Word
  | .lit v => v
  | .readBack k => s.readLog.reverse.getD k 0

/-- A 32-bit write to CMD executes the command word written (R183, R85): a legal command, or the illegal command of
R181. -/
def runWord (w : Word) (s : State) : Out :=
  match decode w with
  | .ok i => exec i s
  | .error _ => execIllegal s

/-- `MemWrite(addr, n, v)` (R50, R53): a byte into IBUF, a command word into CMD; every other write is ignored (R29). -/
def hostWrite (n : Nat) (a : Addr) (v : Word) (s : State) : Out :=
  if n = 4 ∧ a = cmdAddr then runWord v s
  else if n = 1 ∧ a.toNat < 0x100 then .next (s.setIbuf (s.ibuf.set a.toNat (v.setWidth 8)))
  else .next s

/-- One event at the host port. A host access while reset is asserted is outside the spec (R211, U11). A release of a reset
that is not asserted is no edge and changes nothing. -/
def perform (e : HostEvent) (s : State) : Out :=
  match e with
  | .assertReset => .next (s.setInReset true)
  | .releaseReset => bif s.inReset then .next s.takeReset else .next s
  | .read n a =>
    bif s.inReset then .refused .hostAccessDuringReset else .next (s.logRead (s.hostRead n a))
  | .write n a v =>
    bif s.inReset then .refused .hostAccessDuringReset else hostWrite n a (s.hostValue v) s

/-- One step: the host's next event, taken off its sequence; with none left the block is idle and holds its state (R202,
R222). -/
def hostStep (s : State) : Out :=
  match s.host with
  | [] => .next s
  | e :: rest => perform e (s.setHost rest)

/-- The host's next event is the CMD write of word `w`, with the reset input released (log entry 1). -/
def State.issue (s : State) (w : Word) : State :=
  (s.setHost (.write 4 cmdAddr (.lit w) :: s.host)).setInReset false

end Sys2Proof.Machine
end

