-- ==== Sys2Proof/Machine/Step.lean ====
section
/-! DEFINITION. The step function: one event of the host at the port (spec/00_scope.md R6, spec/20_memory.md R56). -/

namespace Sys2Proof.Machine

/-- One step of the machine. The block has no step of its own (R6): a step is the host's next access. -/
def step (s : State) : Host.Outcome State Fault Refusal := hostStep s

/-- `s` with the instruction of bits `w` where the step takes its next one: the host is about to write it to CMD (log
entry 1). -/
def State.withFetchWord (s : State) (nbits w : Nat) : State := s.issue (BitVec.ofNat 32 (w % 2 ^ nbits))

end Sys2Proof.Machine
end

