-- ==== Sys2Proof/WellFormed.lean ====
section
/-! DEFINITION. The static checks: the constraints on the parameters (spec/00_scope.md R8, R9) and the operand checks of
the assembler (spec/30_encoding.md R86). A command itself (`Instr`) has no ill-formed term: its operands are bytes. -/

namespace Sys2Proof

/-- The constraints of R9 on the parameters: `4 <= N <= 127`, and the four stuffing symbols pairwise distinct. `MAGIC` is
unconstrained. -/
def Params.wf (c : Params) : Bool :=
  4 ≤ c.N && c.N ≤ 127 &&
    c.END != c.ESC && c.END != c.ESC_END && c.END != c.ESC_ESC &&
      c.ESC != c.ESC_END && c.ESC != c.ESC_ESC && c.ESC_END != c.ESC_ESC

/-- Every command is well formed: R81 gives each operand eight bits and the types of `Instr` hold no more. -/
def Instr.wf (_ : Instr) : Bool := true

/-- A number that fits 8 bits ("Each operand must fit 8 bits", R86). -/
def fits8 (n : Nat) : Bool := n < 256

/-- A number that is a host address (12 bits, R50). -/
def fitsAddr (n : Nat) : Bool := n < 4096

/-- A number that fits a 32-bit word. -/
def fits32 (n : Nat) : Bool := n < 4294967296

/-- The operand checks of an assembler: "Each operand must fit 8 bits; an assembler refuses a larger one" (R86). Addresses
must lie in the 12-bit space of R50, and the value of `WR32` in a word. DESIGN CHOICE (log entry 18): `LOAD`, `DFR.S` and
`SDEC.S` with no byte at all, of which R87 says nothing, pass; `LOAD` still needs an address in the space. -/
def AsmLine.wf : AsmLine → Bool
  | .wr8 a v => fitsAddr a && fits8 v
  | .rd8 a => fitsAddr a
  | .wr32 a v => fitsAddr a && fits32 v
  | .rd32 a => fitsAddr a
  | .nop => true
  | .chk s l o => fits8 s && fits8 l && fits8 o
  | .senc l c => fits8 l && fits8 c
  | .sdec b => fits8 b
  | .fenc l c => fits8 l && fits8 c
  | .dfr b => fits8 b
  | .chk0 l o => fits8 l && fits8 o
  | .fencm l => fits8 l
  | .sencm l => fits8 l
  | .load a bs => fitsAddr a && decide (a + bs.length ≤ 4096) && bs.all fits8
  | .dfrS bs => bs.all fits8
  | .sdecS bs => bs.all fits8
  | .copyoi l => fits8 l

end Sys2Proof
end

