-- ==== Sys2Proof/Machine/Assembler.lean ====
section
/-! DEFINITION. The assembler: host operations, mnemonics and pseudo-instructions as host events (spec/30_encoding.md R86,
R87; log entry 18). -/

namespace Sys2Proof.Machine

/-- A command line: the command's word written to CMD (R86). -/
def cmdEvent (i : Instr) : HostEvent := .write 4 cmdAddr (.lit (encode i))

/-- `WR8 addr, v`. -/
def wr8Event (a v : Nat) : HostEvent := .write 1 (BitVec.ofNat 12 a) (.lit (BitVec.ofNat 32 v))

/-- The host events of a line whose operands have passed their checks (the tables of R86 and R87). DESIGN CHOICE (log
entry 18): `LOAD`, `DFR.S` and `SDEC.S` with no byte, which R87 writes from `b0` on only, are no access at all. -/
def AsmLine.expand : AsmLine → List HostEvent
  | .wr8 a v => [wr8Event a v]
  | .rd8 a => [.read 1 (BitVec.ofNat 12 a)]
  | .wr32 a v => [.write 4 (BitVec.ofNat 12 a) (.lit (BitVec.ofNat 32 v))]
  | .rd32 a => [.read 4 (BitVec.ofNat 12 a)]
  | .nop => [cmdEvent .nop]
  | .chk seed len off => [cmdEvent (.chk (BitVec.ofNat 8 seed) (BitVec.ofNat 8 len) (BitVec.ofNat 8 off))]
  | .senc len cap => [cmdEvent (.senc (BitVec.ofNat 8 len) (BitVec.ofNat 8 cap))]
  | .sdec b => [cmdEvent (.sdec (BitVec.ofNat 8 b))]
  | .fenc len cap => [cmdEvent (.fenc (BitVec.ofNat 8 len) (BitVec.ofNat 8 cap))]
  | .dfr b => [cmdEvent (.dfr (BitVec.ofNat 8 b))]
  | .chk0 len off => [cmdEvent (.chk 0 (BitVec.ofNat 8 len) (BitVec.ofNat 8 off))]
  | .fencm len => [cmdEvent (.fenc (BitVec.ofNat 8 len) 0xFF)]
  | .sencm len => [cmdEvent (.senc (BitVec.ofNat 8 len) 0xFF)]
  | .load a bs => bs.zipIdx.map fun p => wr8Event (a + p.2) p.1
  | .dfrS bs => bs.map fun b => cmdEvent (.dfr (BitVec.ofNat 8 b))
  | .sdecS bs => bs.map fun b => cmdEvent (.sdec (BitVec.ofNat 8 b))
  | .copyoi len =>
    (List.range len).flatMap fun i =>
      [.read 1 (BitVec.ofNat 12 (0x100 + i)), .write 1 (BitVec.ofNat 12 i) (.readBack 0)]

/-- Assemble a line, refusing an operand that does not fit (R86). -/
def assembleLine (l : AsmLine) : Option (List HostEvent) :=
  if l.wf then some (AsmLine.expand l) else none

/-- Assemble a program: "a sequence of host operations, one per line" (R86). -/
def assemble : List AsmLine → Option (List HostEvent)
  | [] => some []
  | l :: ls =>
    match assembleLine l, assemble ls with
    | some a, some b => some (a ++ b)
    | _, _ => none

end Sys2Proof.Machine
end

