-- ==== Sys2Proof/Machine/Instances.lean ====
section
/-! DEFINITION. Several instances of the block in one system (spec/20_memory.md R63, spec/60_exceptions.md R200): each has
its own state and its own host, each starts in its reset state, and a step is a step of one of them. Which instance moves
next is the system's choice, an argument here (log entry 12). -/

namespace Sys2Proof.Machine

/-- Instance `k` of a system, built for the parameters `c`, right after reset (R200, R39). Its unwritten buffer bytes are
its own draw, which no rule relates to another instance's (U2; log entry 4). -/
def State.resetInstance (k : Nat) (c : Params) : State := { State.resetWith c with draw := ⟨k, 0⟩ }

/-- A system right after reset: "Each instance starts in its reset state" (R200), each built for its own parameters. -/
def resetSystem (cs : List Params) : List State := cs.mapIdx State.resetInstance

/-- Instance `k` of the system takes a step. A step of an instance that does not exist changes nothing. -/
def stepInstance (k : Nat) (sys : List State) : Host.Outcome (List State) Fault Refusal :=
  match sys[k]? with
  | none => .next sys
  | some s =>
    match step s with
    | .next s' => .next (sys.set k s')
    | .fault r => .fault r
    | .refused r => .refused r

end Sys2Proof.Machine
end

