-- ==== Sys2Proof/Safety.lean ====
section
/-! DEFINITION. What counts as a sound state of the block: the invariants statements are made in terms of
(spec/10_state.md R38, and the ranges of R23, R31, R32). All of them are Bools, so that a concrete state can be
checked by evaluation. -/

namespace Sys2Proof.Machine

/-- The four buffers are in canonical form and within their sizes (R34 to R36). -/
def State.buffersOk (s : State) : Bool :=
  s.ibuf.wf && s.ibuf.below Config.bufSize && s.obuf.wf && s.obuf.below Config.bufSize &&
    s.acc.wf && s.acc.below s.cfg.N && s.ring.wf && s.ring.below s.cfg.N

/-- The stuffing decoder's ranges: `sd_pos` and `sd_ready` in 0 to N (R31, R117). -/
def State.sdecOk (s : State) : Bool := decide (s.sdPos.toNat ≤ s.cfg.N) && decide (s.sdReady.toNat ≤ s.cfg.N)

/-- The positions are below `2N` (R32); `df_start` counts only outside SEARCHING. -/
def State.posOk (s : State) : Bool :=
  decide (s.dfPush.toNat < Params.pmod s.cfg) && decide (s.dfLook.toNat < Params.pmod s.cfg) &&
    (decide (s.dfState = .searching) || decide (s.dfStart.toNat < Params.pmod s.cfg))

/-- Every byte of the current candidate received so far has been written since reset (R38 item 5). -/
def State.candWritten (s : State) : Bool :=
  (List.range s.avail).all fun k => (s.ring.get? ((s.dfStart.toNat + k) % s.cfg.N)).isSome

/-- Item 2 of R38, and item 5 for the candidate: what holds outside SEARCHING. -/
def State.pendingOk (s : State) : Bool :=
  decide (s.dfLook = nextPos s.cfg s.dfStart) && decide (s.candByte 0 = s.cfg.MAGIC) &&
    decide (1 ≤ s.avail) && decide (s.avail ≤ s.cfg.N - 1) && s.candWritten

/-- The de-framer invariants of R38, items 1 to 4 as written and item 5 for the bytes of the pending candidate. -/
def State.dfrOk (s : State) : Bool :=
  s.posOk &&
    match s.dfState with
    | .searching => decide (s.dfLook = s.dfPush)
    | .headerWait => s.pendingOk && decide (s.avail ≤ 2)
    | .bodyWait => s.pendingOk && s.headerOk && decide (3 ≤ s.avail) && decide (s.avail < s.declared)

/-- STATUS.ERR is never 3 (R23, R191), and STATUS.EMITS is at most N - 3 (R160). -/
def State.statusOk (s : State) : Bool := decide (s.err ≠ 3) && decide (s.emits.toNat ≤ s.cfg.N - 3)

/-- The invariant of the block between commands. -/
def State.ok (s : State) : Bool := s.cfg.wf && s.buffersOk && s.sdecOk && s.dfrOk && s.statusOk

/-- A sequence of commands, one after the other, each to completion before the next (R184). -/
def runExec : List Instr → State → Out
  | [], s => .next s
  | i :: is, s =>
    match exec i s with
    | .next t => runExec is t
    | .fault r => .fault r
    | .refused r => .refused r

/-- A word is illegal (R83, R181): `RSV != 0` or `OP >= 0x6`. -/
def IllegalWord (w : Word) : Prop := w.extractLsb' 24 4 ≠ 0 ∨ 6 ≤ (w.extractLsb' 28 4).toNat

end Sys2Proof.Machine
end

