-- ==== Sys2Proof/Certificates/Slice0/Obligations.lean ====
section
/-! DEFINITION. The statements for the provers, each from numbered rules of spec/ (OBLIGATIONS.json names them). -/

open Sys2Proof Sys2Proof.Machine

/-! ## The command word (30_encoding.md) -/

/-- Decoding the word of a well-formed command gives the command back: no operand bit is dropped (R81, R85, R86). -/
def Obligations.DecodeInvertsEncode : Prop :=
  ∀ i : Instr, i.wf = true → decode (encode i) = .ok i

/-- Encoding what a word decodes to gives the word with its ignored fields cleared (R84, R85, R86). -/
def Obligations.EncodeRestoresReadFields : Prop :=
  ∀ (w : Word) (i : Instr), decode w = .ok i → encode i = w &&& operandMask i

/-- R85: illegal if `w[27:24] != 0`, else by the opcode, else illegal; and each row's match under the mask 0xFF000000, with
the operands at the row's bits. -/
def Obligations.DecodeFollowsMatchAndMask : Prop :=
  ∀ w : Word,
    (w.extractLsb' 24 4 ≠ 0 → ∃ r, decode w = .error r) ∧
    (6 ≤ (w.extractLsb' 28 4).toNat → ∃ r, decode w = .error r) ∧
    (w &&& 0xFF000000#32 = 0x00000000#32 ↔ decode w = .ok .nop) ∧
    (w &&& 0xFF000000#32 = 0x10000000#32 ↔
      decode w = .ok (.chk (w.extractLsb' 16 8) (w.extractLsb' 8 8) (w.extractLsb' 0 8))) ∧
    (w &&& 0xFF000000#32 = 0x20000000#32 ↔ decode w = .ok (.senc (w.extractLsb' 8 8) (w.extractLsb' 0 8))) ∧
    (w &&& 0xFF000000#32 = 0x30000000#32 ↔ decode w = .ok (.sdec (w.extractLsb' 16 8))) ∧
    (w &&& 0xFF000000#32 = 0x40000000#32 ↔ decode w = .ok (.fenc (w.extractLsb' 8 8) (w.extractLsb' 0 8))) ∧
    (w &&& 0xFF000000#32 = 0x50000000#32 ↔ decode w = .ok (.dfr (w.extractLsb' 16 8)))

/-- R84: an ignored field may hold any value; the command behaves the same for every value of it. Opcodes 0x6 to 0xF are
illegal. -/
def Obligations.IgnoredFieldsChangeNothing : Prop :=
  (∀ (w w' : Word) (i : Instr) (s : State), decode w = .ok i →
    w &&& operandMask i = w' &&& operandMask i → decode w' = .ok i ∧ runWord w' s = runWord w s) ∧
  (∀ w : Word, 6 ≤ (w.extractLsb' 28 4).toNat → ∃ r, decode w = .error r)

/-- A few words written out from the patterns of R85 decode to the commands they stand for. -/
def Obligations.WordsWrittenOutDecode : Prop :=
  decode 0x00000000 = .ok .nop ∧
  decode 0x10520600 = .ok (.chk 0x52 6 0) ∧
  decode 0x2000040A = .ok (.senc 4 10) ∧
  decode 0x30DB0000 = .ok (.sdec 0xDB) ∧
  decode 0x40000307 = .ok (.fenc 3 7) ∧
  decode 0x50550000 = .ok (.dfr 0x55) ∧
  decode 0x01000000 = .error .reservedField ∧
  decode 0x60000000 = .error .reservedOpcode

/-- R181, R83: any word with `w[27:24] != 0` or `w[31:28] >= 0x6` sets STATUS.ERR to 2 and changes nothing else, before
any other check; every other word runs a command. -/
def Obligations.IllegalWordOnlySetsErr : Prop :=
  ∀ (w : Word) (s : State),
    (w.extractLsb' 24 4 ≠ 0 ∨ 6 ≤ (w.extractLsb' 28 4).toNat → runWord w s = .next { s with err := 2 }) ∧
    (¬(w.extractLsb' 24 4 ≠ 0 ∨ 6 ≤ (w.extractLsb' 28 4).toNat) → ∃ i, decode w = .ok i ∧ runWord w s = exec i s)

/-! ## The step -/

/-- A STEP RUNS THE DECODED INSTRUCTION (R183): when the host's next access is a 32-bit write to CMD of a word that decodes
to `i`, the step is `exec i` in the state with that access taken off the host's sequence; a word that does not decode runs
the illegal command there. The sequence as a state field is the model's (log entry 1). -/
def Obligations.StepRunsDecodedCommand : Prop :=
  ∀ (s : State) (v : HostValue) (rest : List HostEvent), s.inReset = false →
    s.host = .write 4 0x300 v :: rest →
    (∀ i, decode (s.hostValue v) = .ok i → i.wf = true → step s = exec i { s with host := rest }) ∧
    (∀ r, decode (s.hostValue v) = .error r → step s = .next { s with host := rest, err := 2 })

/-- Every command completes, whatever the state (R190: "every command runs to its end and leaves a defined state"), and
so does every step but a host access while reset is asserted, which is refused (R211; log entry 7). -/
def Obligations.EveryCommandCompletes : Prop :=
  (∀ (i : Instr) (s : State), ∃ t, exec i s = .next t) ∧
  (∀ s : State, s.inReset = false → ∃ t, step s = .next t) ∧
  (∀ s : State, ∀ r, step s = .refused r → s.inReset = true ∧ r = .hostAccessDuringReset)

/-- With the host's sequence exhausted the block is idle and holds all its state (R202, R222). That a step then answers the
same state is the model's choice (log entry 1). -/
def Obligations.IdleBlockHoldsState : Prop :=
  ∀ s : State, s.host = [] → step s = .next s

/-! ## NOP and CHK -/

/-- R180: a word `{0x00, x, x, x}` is NOP; `err <- 0`; nothing else changes. -/
def Obligations.NopOnlyClearsErr : Prop :=
  (∀ x y z : Byte, decode (packWord 0x00 x y z) = .ok .nop) ∧
  ∀ s : State, exec .nop s = .next { s with err := 0 }

/-- R102: a word `{0x10, A, B, C}` is CHK with the operands in that order; RESULT is the fold of `cs <- ((cs XOR x) + 1) mod 256` from the seed over `IBUF[(off + i) mod 256]`, ERR is 0, and
no other state changes; `len = 0` gives the seed. -/
def Obligations.ChkFoldsIbufRange : Prop :=
  (∀ seed len off : Byte, decode (packWord 0x10 seed len off) = .ok (.chk seed len off)) ∧
  ∀ (seed len off : Byte) (s : State),
    exec (.chk seed len off) s = .next { s with
      result := ((List.range len.toNat).map fun i => s.ibufAt ((off.toNat + i) % 256)).foldl
        (fun cs x => BitVec.ofNat 8 (((cs ^^^ x).toNat + 1) % 256)) seed
      err := 0 } ∧
    (len = 0 → exec (.chk seed len off) s = .next { s with result := seed, err := 0 })

/-- R101, items 1 to 4: the empty range, chaining, a change of one byte anywhere changes the result, and order matters. -/
def Obligations.ChecksumLaws : Prop :=
  (∀ seed : Byte, chk [] seed = seed) ∧
  (∀ (s t : List Byte) (seed : Byte), chk (s ++ t) seed = chk t (chk s seed)) ∧
  (∀ (a b : List Byte) (x y seed : Byte), x ≠ y → chk (a ++ x :: b) seed ≠ chk (a ++ y :: b) seed) ∧
  (chk [0x01, 0x02] 0 = 0x01 ∧ chk [0x02, 0x01] 0 = 0x03)

/-- R103: CHK on the first piece of a range, then CHK on the next piece seeded with the previous RESULT, ends with the
RESULT of one CHK over the whole range; and over the frame of any payload in IBUF, `CHK HCS, S-1, base` gives TCS, the
frame's last byte. -/
def Obligations.ChkOfPiecesIsChkOfRange : Prop :=
  (∀ (s t u v : State) (seed off m n : Byte), m.toNat + n.toNat < 256 →
    exec (.chk seed m off) s = .next t → exec (.chk t.result n (off + m)) t = .next u →
    exec (.chk seed (m + n) off) s = .next v → u = v) ∧
  (∀ (s t : State) (p : List Byte) (base : Byte), p.length + 4 < 256 →
    (∀ i (h : i < (frame s.cfg p).length), s.ibufAt ((base.toNat + i) % 256) = (frame s.cfg p)[i]) →
    exec (.chk (s.ibufAt ((base.toNat + 2) % 256)) (BitVec.ofNat 8 (p.length + 3)) base) s = .next t →
    t.result = s.ibufAt ((base.toNat + (p.length + 3)) % 256))

/-! ## SENC and SDEC (41_stuffing.md) -/

/-- R112 with R111 written out: a word `{0x20, x, B, C}` is SENC; with capacity for the worst case, OBUF's first bytes are the stuffed message, RESULT its
length (2 to 254), ERR 0, and every other OBUF byte and all other state is unchanged; else RESULT 0, ERR 1 and nothing
else. -/
def Obligations.SencStuffsSourceOrFails : Prop :=
  (∀ x len cap : Byte, decode (packWord 0x20 x len cap) = .ok (.senc len cap)) ∧
  ∀ (len cap : Byte) (s : State),
    (2 * len.toNat + 2 > cap.toNat → exec (.senc len cap) s = .next { s with result := 0, err := 1 }) ∧
    (2 * len.toNat + 2 ≤ cap.toNat →
      ∃ (t : State) (out : List Byte), exec (.senc len cap) s = .next t ∧
        out = [s.cfg.END] ++ ((List.range len.toNat).map s.ibufAt).flatMap (fun x =>
          if x = s.cfg.END then [s.cfg.ESC, s.cfg.ESC_END]
          else if x = s.cfg.ESC then [s.cfg.ESC, s.cfg.ESC_ESC] else [x]) ++ [s.cfg.END] ∧
        t.result.toNat = out.length ∧ 2 ≤ out.length ∧ out.length ≤ 254 ∧
        (∀ i, t.obufAt i = if h : i < out.length then out[i] else s.obufAt i) ∧
        t = { s with obuf := t.obuf, result := t.result, err := 0 })

/-- R113: on success RESULT is `2 + B + k` with `k` the number of source bytes equal to END or ESC, and
`B + 2 <= RESULT <= 2*B + 2 <= C`. -/
def Obligations.SencLengthLaw : Prop :=
  ∀ (len cap : Byte) (s t : State), exec (.senc len cap) s = .next t → t.err = 0 →
    t.result.toNat = 2 + len.toNat +
      ((List.range len.toNat).map s.ibufAt).countP (fun x => decide (x = s.cfg.END ∨ x = s.cfg.ESC)) ∧
    len.toNat + 2 ≤ t.result.toNat ∧ t.result.toNat ≤ 2 * len.toNat + 2 ∧ 2 * len.toNat + 2 ≤ cap.toNat

/-- "`END` never appears inside an encoded message" (R77): between its first and last byte a stuffed message holds no
END. -/
def Obligations.StuffedBodyHoldsNoEnd : Prop :=
  ∀ (c : Params) (b : List Byte), c.wf = true →
    ∃ body, stuff c b = [c.END] ++ body ++ [c.END] ∧ c.END ∉ body

/-- R114 to R116, with the append of R117: a word `{0x30, A, x, x}` is SDEC, and what one SDEC command does. END: a non-empty accumulation becomes ready and is
emptied, ACC keeps its bytes. Another byte: translated or dropped after ESC, else stored unless it is ESC; a stored byte
goes to ACC at `sd_pos`, restarted at 0 when the accumulation holds N bytes. Readiness is cleared first, `sd_last` is the
byte, ERR is 0, and nothing else changes. -/
def Obligations.SdecPushesOneByte : Prop :=
  (∀ b x y : Byte, decode (packWord 0x30 b x y) = .ok (.sdec b)) ∧
  ∀ (b : Byte) (s : State),
    (b = s.cfg.END → exec (.sdec b) s =
      .next { s with sdReady := s.sdPos, sdPos := 0, sdLast := s.cfg.END, err := 0 }) ∧
    (b ≠ s.cfg.END →
      let stored : Option Byte :=
        if s.sdLast = s.cfg.ESC then
          if b = s.cfg.ESC_END then some s.cfg.END else if b = s.cfg.ESC_ESC then some s.cfg.ESC else none
        else if b = s.cfg.ESC then none else some b
      let pos : Byte := if s.sdPos.toNat = s.cfg.N then 0 else s.sdPos
      (stored = none → exec (.sdec b) s = .next { s with sdReady := 0, sdLast := b, err := 0 }) ∧
      (∀ v, stored = some v → ∃ t, exec (.sdec b) s = .next t ∧
        t = { s with acc := t.acc, sdPos := pos + 1, sdReady := 0, sdLast := b, err := 0 } ∧
        t.accAt pos.toNat = v ∧ ∀ i, i ≠ pos.toNat → t.accAt i = s.accAt i))

/-- R118: `sd_ready` is set only by an SDEC command that receives END with a non-empty accumulation, every SDEC command
clears it first, and neither other commands, nor an illegal word, nor host reads touch it. -/
def Obligations.SdecReadinessIsOneShot : Prop :=
  (∀ (b : Byte) (s t : State), exec (.sdec b) s = .next t →
    t.sdReady = if b = s.cfg.END ∧ s.sdPos ≠ 0 then s.sdPos else 0) ∧
  (∀ (i : Instr) (s t : State), (∀ b, i ≠ .sdec b) → exec i s = .next t → t.sdReady = s.sdReady) ∧
  (∀ (w : Word) (s t : State), (∀ i, decode w ≠ .ok i) → runWord w s = .next t → t.sdReady = s.sdReady) ∧
  (∀ (s t : State) (n : Nat) (a : Addr) (rest : List HostEvent), s.host = .read n a :: rest → step s = .next t →
    t.sdReady = s.sdReady)

/-- R120: every byte of `stuff(b)` pushed into SDEC, from any decoder state. The leading END delivers an unfinished message
(item 4), empties the accumulation and clears a pending escape, and no later byte but the last can set readiness (item 1); an empty `b` makes no message ready (item 2); else the
final END delivers the last `((|b| - 1) mod N) + 1` bytes of `b` (item 3), which is `b` itself when `|b| <= N` (item 1). -/
def Obligations.SdecDecodesStuffedMessage : Prop :=
  ∀ (s : State) (b : List Byte), s.cfg.wf = true →
    (∃ u, runExec [.sdec s.cfg.END] s = .next u ∧ u.sdReady = s.sdPos ∧ u.sdPos = 0 ∧ u.sdLast = s.cfg.END) ∧
    (∀ k, 2 ≤ k → k < (stuff s.cfg b).length →
      ∃ u, runExec (((stuff s.cfg b).take k).map .sdec) s = .next u ∧ u.sdReady = 0) ∧
    ∃ t, runExec ((stuff s.cfg b).map .sdec) s = .next t ∧ t.sdPos = 0 ∧ t.sdLast = s.cfg.END ∧
      (b = [] → t.sdReady = 0) ∧
      (b ≠ [] → t.sdReady.toNat = (b.length - 1) % s.cfg.N + 1 ∧
        (b.length ≤ s.cfg.N → t.sdReady.toNat = b.length) ∧
        ∀ i, (h : i < t.sdReady.toNat) → some (t.accAt i) = b[b.length - t.sdReady.toNat + i]?)

/-! ## FENC (42_frame_encoder.md) -/

/-- R140 with R70 to R73 written out: a word `{0x40, x, B, C}` is FENC; when the frame fits `N` and the capacity, OBUF's first `S` bytes are magic, size,
header checksum, payload and trailing checksum, RESULT is `S`, ERR 0, and every other OBUF byte and all other state is
unchanged; else RESULT 0, ERR 1 and nothing else. -/
def Obligations.FencBuildsFrameOrFails : Prop :=
  (∀ x len cap : Byte, decode (packWord 0x40 x len cap) = .ok (.fenc len cap)) ∧
  ∀ (len cap : Byte) (s : State), s.cfg.wf = true →
    (len.toNat + 4 > s.cfg.N ∨ len.toNat + 4 > cap.toNat →
      exec (.fenc len cap) s = .next { s with result := 0, err := 1 }) ∧
    (len.toNat + 4 ≤ s.cfg.N → len.toNat + 4 ≤ cap.toNat →
      ∃ t : State, exec (.fenc len cap) s = .next t ∧
        t.result.toNat = len.toNat + 4 ∧
        t.obufAt 0 = s.cfg.MAGIC ∧
        t.obufAt 1 = len + 4 ∧
        t.obufAt 2 = chk [s.cfg.MAGIC, len + 4] 0 ∧
        (∀ i, i < len.toNat → t.obufAt (3 + i) = s.ibufAt i) ∧
        t.obufAt (len.toNat + 3) = chk ((List.range (len.toNat + 3)).map t.obufAt) (chk [s.cfg.MAGIC, len + 4] 0) ∧
        (∀ i, len.toNat + 4 ≤ i → t.obufAt i = s.obufAt i) ∧
        t = { s with obuf := t.obuf, result := t.result, err := 0 })

/-! ## DFR (43_deframer.md) -/

/-- A word `{0x50, A, x, x}` is DFR, and every DFR command completes (R150): the byte goes to the ring at `df_push`, which advances modulo 2N (R151); the
command appends datagrams to DOUT, sets EMITS and ERR, and may move the search variables; nothing else changes. -/
def Obligations.DfrCompletesWithinItsFrame : Prop :=
  (∀ b x y : Byte, decode (packWord 0x50 b x y) = .ok (.dfr b)) ∧
  ∀ (b : Byte) (s : State), s.cfg.wf = true →
    ∃ (t : State) (new : List (List Byte)), exec (.dfr b) s = .next t ∧
      t.dfPush.toNat = (s.dfPush.toNat + 1) % (2 * s.cfg.N) ∧
      (∀ p, t.ringAt p = if p % s.cfg.N = s.dfPush.toNat % s.cfg.N then b else s.ringAt p) ∧
      t.dout = s.dout ++ new ∧ t.emits = BitVec.ofNat 8 new.length ∧
      t = { s with ring := t.ring, dfPush := t.dfPush, dout := t.dout, emits := t.emits, err := 0,
                   dfState := t.dfState, dfLook := t.dfLook, dfStart := t.dfStart }

/-- R161: no new search while a candidate is pending. While its header, or its declared size, is still incomplete after the
new byte, a DFR command only takes the byte in: the candidate, the search position and DOUT stay. -/
def Obligations.PendingCandidateOnlyWaits : Prop :=
  ∀ (b : Byte) (s : State), s.ok = true →
    (s.dfState = .headerWait ∧ s.avail + 1 < 3) ∨ (s.dfState = .bodyWait ∧ s.avail + 1 < s.declared) →
    exec (.dfr b) s = .next { s with
      ring := s.ring.set (s.dfPush.toNat % s.cfg.N) b, dfPush := nextPos s.cfg s.dfPush, emits := 0, err := 0 }

/-- The scan of R153 visits `look, look + 1, ...` up to, not including, `push`, and stops at the first MAGIC: the answer is
the least such position, and there is none only when no visited position holds MAGIC. SEARCHING runs it from `df_look` over
all `(df_push - df_look) mod 2N` positions up to `df_push`: a match becomes the candidate, `df_look` goes one past it and the
HEADER_WAIT step follows in the same pass; without one, `df_look` becomes `df_push` and the loop ends. -/
def Obligations.ScanStopsAtFirstMagic : Prop :=
  ∀ (s : State) (k : Nat) (p : Byte), s.cfg.wf = true → p.toNat < 2 * s.cfg.N →
    (∀ q, s.scan k p = some q ↔ ∃ j, j < k ∧ q.toNat = (p.toNat + j) % (2 * s.cfg.N) ∧
      s.ringAt (p.toNat + j) = s.cfg.MAGIC ∧ ∀ i, i < j → s.ringAt (p.toNat + i) ≠ s.cfg.MAGIC) ∧
    (s.scan k p = none ↔ ∀ j, j < k → s.ringAt (p.toNat + j) ≠ s.cfg.MAGIC) ∧
    (s.dfLook.toNat < 2 * s.cfg.N → s.dfPush.toNat < 2 * s.cfg.N → ∀ n : Nat,
      (∀ (q : Byte) (j : Nat), j < (s.dfPush.toNat + 2 * s.cfg.N - s.dfLook.toNat) % (2 * s.cfg.N) →
        q.toNat = (s.dfLook.toNat + j) % (2 * s.cfg.N) → s.ringAt (s.dfLook.toNat + j) = s.cfg.MAGIC →
        (∀ i, i < j → s.ringAt (s.dfLook.toNat + i) ≠ s.cfg.MAGIC) →
        dfrSearch s n = dfrHeader
          { s with dfStart := q, dfLook := BitVec.ofNat 8 ((q.toNat + 1) % (2 * s.cfg.N)), dfState := .headerWait } n) ∧
      ((∀ j, j < (s.dfPush.toNat + 2 * s.cfg.N - s.dfLook.toNat) % (2 * s.cfg.N) →
        s.ringAt (s.dfLook.toNat + j) ≠ s.cfg.MAGIC) →
        dfrSearch s n = ⟨{ s with dfLook := s.dfPush }, n, false⟩))

/-- R150 to R152: what a DFR command is made of. Its notation: the next position, the distance `d(a, b)`, `avail` and `R(k)`.
A pass is the step of the state it finds; the loop goes on exactly while the pass says so; the command is the intake, the
loop from a count of 0, then EMITS and ERR. The allowance of passes is the model's own (log entry 9). -/
def Obligations.DfrCommandRunsThePasses : Prop :=
  (∀ (c : Params) (p : Byte), c.wf = true → (nextPos c p).toNat = (p.toNat + 1) % (2 * c.N)) ∧
  (∀ (c : Params) (a b : Byte), c.wf = true → a.toNat < 2 * c.N →
    dist c a b = (b.toNat + 2 * c.N - a.toNat) % (2 * c.N)) ∧
  (∀ s : State, s.avail = dist s.cfg s.dfStart s.dfPush) ∧
  (∀ (s : State) (k : Nat), s.candByte k = s.ring.read s.draw .ring ((s.dfStart.toNat + k) % s.cfg.N)) ∧
  (∀ (s : State) (n : Nat),
    (s.dfState = .searching → dfrPass s n = dfrSearch s n) ∧
    (s.dfState = .headerWait → dfrPass s n = dfrHeader s n) ∧
    (s.dfState = .bodyWait → dfrPass s n = dfrBody s n)) ∧
  (∀ (f : Nat) (s : State) (n : Nat),
    ((dfrPass s n).again = true → dfrLoop (f + 1) s n = dfrLoop f (dfrPass s n).st (dfrPass s n).count) ∧
    ((dfrPass s n).again = false → dfrLoop (f + 1) s n = dfrPass s n)) ∧
  (∀ (b : Byte) (s : State) (r : Pass),
    r = dfrLoop (dfrFuel s.cfg)
      { s with ring := s.ring.set (s.dfPush.toNat % s.cfg.N) b, dfPush := nextPos s.cfg s.dfPush } 0 →
    exec (.dfr b) s = .next { r.st with emits := BitVec.ofNat 8 r.count, err := 0 })

/-- R154: the HEADER_WAIT step waits for three bytes; a header whose checksum and size bounds hold moves to BODY_WAIT,
which runs at once in the same pass; another is abandoned, `df_look` stays, and the search continues in the same
command. -/
def Obligations.HeaderWaitChecksHeader : Prop :=
  ∀ (s : State) (n : Nat),
    (s.avail < 3 → dfrHeader s n = ⟨s, n, false⟩) ∧
    (3 ≤ s.avail → chk [s.candByte 0, s.candByte 1] 0 = s.candByte 2 → 3 ≤ (s.candByte 1).toNat →
      (s.candByte 1).toNat ≤ s.cfg.N → dfrHeader s n = dfrBody { s with dfState := .bodyWait } n) ∧
    (3 ≤ s.avail → ¬(chk [s.candByte 0, s.candByte 1] 0 = s.candByte 2 ∧ 3 ≤ (s.candByte 1).toNat ∧
      (s.candByte 1).toNat ≤ s.cfg.N) → dfrHeader s n = ⟨{ s with dfState := .searching }, n, true⟩)

/-- R155, R156, R158: the BODY_WAIT step waits for the declared size, re-validates it, emits the payload exactly when the
trailing checksum matches, and returns to SEARCHING one byte past the candidate's start. -/
def Obligations.BodyWaitChecksTrailer : Prop :=
  ∀ (s : State) (n S : Nat), S = (s.candByte 1).toNat →
    (s.avail < S → dfrBody s n = ⟨s, n, false⟩) ∧
    (S ≤ s.avail → ¬(3 ≤ S ∧ S ≤ s.cfg.N) → dfrBody s n = ⟨{ s with dfState := .searching }, n, false⟩) ∧
    (S ≤ s.avail → 4 ≤ S → S ≤ s.cfg.N →
      chk ((List.range (S - 1)).map s.candByte) (s.candByte 2) = s.candByte (S - 1) →
      dfrBody s n = ⟨{ s with
        dout := s.dout ++ [(List.range (S - 4)).map fun k => s.candByte (3 + k)]
        dfLook := nextPos s.cfg s.dfStart, dfState := .searching }, n + 1, true⟩) ∧
    (S ≤ s.avail → 4 ≤ S → S ≤ s.cfg.N →
      chk ((List.range (S - 1)).map s.candByte) (s.candByte 2) ≠ s.candByte (S - 1) →
      dfrBody s n = ⟨{ s with dfLook := nextPos s.cfg s.dfStart, dfState := .searching }, n, true⟩)

/-- R157: a declared size of 3 passes the header check when its checksum does, emits nothing whatever the checksum compare
would give, and returns to SEARCHING by R158. With `df_look` one past the start, as every pending candidate has it, that is
what a header failure does. -/
def Obligations.DeclaredSizeThreeNeverEmits : Prop :=
  ∀ (s : State) (n : Nat), s.cfg.wf = true → (s.candByte 1).toNat = 3 → 3 ≤ s.avail →
    (s.headerOk = true ↔ chk [s.candByte 0, s.candByte 1] 0 = s.candByte 2) ∧
    dfrBody s n = ⟨{ s with dfLook := nextPos s.cfg s.dfStart, dfState := .searching }, n, true⟩ ∧
    (s.dfLook = nextPos s.cfg s.dfStart → dfrBody s n = ⟨{ s with dfState := .searching }, n, true⟩)

/-- R159: from a sound state the loop of a DFR command runs at most N + 1 times, however many passes it is allowed. -/
def Obligations.DfrLoopRunsAtMostNPlusOneTimes : Prop :=
  ∀ (b : Byte) (s : State) (m : Nat), s.ok = true → s.cfg.N + 1 ≤ m →
    dfrLoop m (s.intake b) 0 = dfrLoop (s.cfg.N + 1) (s.intake b) 0

/-- The allowance of passes in the model never cuts a command short (log entry 9): from any state whose positions are in
range, more passes give the same answer. -/
def Obligations.DfrFuelNeverRunsOut : Prop :=
  ∀ (b : Byte) (s : State) (m : Nat), s.cfg.wf = true → s.posOk = true → dfrFuel s.cfg ≤ m →
    dfrLoop m (s.intake b) 0 = dfrLoop (dfrFuel s.cfg) (s.intake b) 0

/-- R160: each DFR command sets EMITS to the number of datagrams it emitted, 0 to N - 3; no other command, nor an illegal
word, changes EMITS. -/
def Obligations.EmitsCountsDatagrams : Prop :=
  (∀ (b : Byte) (s t : State), s.ok = true → exec (.dfr b) s = .next t →
    t.dout.length = s.dout.length + t.emits.toNat ∧ t.emits.toNat ≤ s.cfg.N - 3) ∧
  (∀ (i : Instr) (s t : State), (∀ b, i ≠ .dfr b) → exec i s = .next t → t.emits = s.emits) ∧
  (∀ (w : Word) (s t : State), (∀ i, decode w ≠ .ok i) → runWord w s = .next t → t.emits = s.emits)

/-- R143, with the layout of R140: push the frame of a payload from a SEARCHING state. Nothing is emitted before the last
byte; the last byte's command emits the payload first; and when no byte after the frame's first is MAGIC it emits nothing
else and the de-framer ends in SEARCHING (90_conflicts.md C5). -/
def Obligations.DeframerEmitsEncodedPayload : Prop :=
  ∀ (s : State) (p : List Byte), s.ok = true → s.dfState = .searching → p.length + 4 ≤ s.cfg.N →
    ∃ u t rest, runExec ((frame s.cfg p).dropLast.map .dfr) s = .next u ∧ u.dout = s.dout ∧
      runExec ((frame s.cfg p).map .dfr) s = .next t ∧ t.dout = s.dout ++ [p] ++ rest ∧
      (s.cfg.MAGIC ∉ (frame s.cfg p).tail → rest = [] ∧ t.dfState = .searching)

/-- R212: at most N - 1 further bytes resolve any pending candidate: after them the de-framer searches, or waits for another
candidate. -/
def Obligations.PendingCandidateResolves : Prop :=
  ∀ (s t : State) (bs : List Byte), s.ok = true → s.dfState ≠ .searching → bs.length = s.cfg.N - 1 →
    runExec (bs.map .dfr) s = .next t → t.dfState = .searching ∨ t.dfStart ≠ s.dfStart

/-! ## The invariant -/

/-- The invariant holds after reset, for every legal choice of the parameters (R39, R38). -/
def Obligations.InvariantHoldsAtReset : Prop :=
  State.reset.ok = true ∧ ∀ c : Params, c.wf = true → (State.resetWith c).ok = true

/-- Every step keeps the invariant: the parameters legal, the buffers canonical and within their sizes, the decoder's and
the de-framer's ranges (R31, R32), the de-framer invariants of R38, ERR never 3 (R191) and EMITS at most N - 3 (R160). -/
def Obligations.StepKeepsBlockSound : Prop :=
  ∀ s t : State, s.ok = true → step s = .next t → t.ok = true

/-! ## Frames of the commands, and the status -/

/-- Which command writes which state (R24, R51, R110, R160): IBUF, the parameters and the model's own fields never; OBUF
only SENC and FENC; ACC and the decoder only SDEC; RING, DOUT, EMITS and the search variables only DFR; RESULT only CHK,
SENC and FENC. -/
def Obligations.CommandsWriteOnlyTheirState : Prop :=
  ∀ (i : Instr) (s t : State), exec i s = .next t →
    (t.ibuf = s.ibuf ∧ t.cfg = s.cfg ∧ t.inReset = s.inReset ∧ t.host = s.host ∧ t.readLog = s.readLog ∧
      t.draw = s.draw) ∧
    ((∀ l c, i ≠ .senc l c ∧ i ≠ .fenc l c) → t.obuf = s.obuf ∧ ((∀ a l o, i ≠ .chk a l o) → t.result = s.result)) ∧
    ((∀ b, i ≠ .sdec b) →
      t.acc = s.acc ∧ t.sdLast = s.sdLast ∧ t.sdPos = s.sdPos ∧ t.sdReady = s.sdReady) ∧
    ((∀ b, i ≠ .dfr b) →
      t.ring = s.ring ∧ t.dout = s.dout ∧ t.emits = s.emits ∧ t.dfState = s.dfState ∧ t.dfPush = s.dfPush ∧
        t.dfLook = s.dfLook ∧ t.dfStart = s.dfStart)

/-- R191, R184: every command word, legal or illegal, writes ERR with its outcome: 2 for an illegal word, 1 for SENC and
FENC without capacity (RESULT 0, no OBUF byte written), else 0; 3 is never produced. -/
def Obligations.ErrReportsOutcome : Prop :=
  ∀ (w : Word) (s t : State), runWord w s = .next t →
    t.err = (match decode w with
      | .error _ => 2
      | .ok (.senc len cap) => if cap.toNat < 2 * len.toNat + 2 then 1 else 0
      | .ok (.fenc len cap) => if s.cfg.N < len.toNat + 4 ∨ cap.toNat < len.toNat + 4 then 1 else 0
      | .ok _ => 0) ∧
    t.err ≠ 3 ∧ (t.err = 1 → t.result = 0 ∧ t = { s with result := 0, err := 1 }) ∧
    (t.err = 2 → t.result = s.result ∧ t = { s with err := 2 })

/-- R62: DOUT is append-only until reset, and every record a step adds is at most N - 4 bytes long. -/
def Obligations.DoutOnlyGrows : Prop :=
  ∀ s t : State, step s = .next t → ¬(s.inReset = true ∧ ∃ rest, s.host = .releaseReset :: rest) →
    ∃ new : List (List Byte), t.dout = s.dout ++ new ∧ ∀ d ∈ new, d.length ≤ s.cfg.N - 4

/-! ## The host port (20_memory.md) -/

/-- R55: no host read has a side effect: it takes the access off the host's sequence and logs the value read, nothing else;
and the same read again, with nothing in between, returns the same value. -/
def Obligations.HostReadsHaveNoSideEffect : Prop :=
  ∀ (s : State) (n : Nat) (a : Addr) (rest : List HostEvent), s.inReset = false → s.host = .read n a :: rest →
    step s = .next { s with host := rest, readLog := s.readLog ++ [s.hostRead n a] } ∧
    ∀ t, step s = .next t → t.hostRead n a = s.hostRead n a

/-- R50, R53: what a host read returns, by address and width. -/
def Obligations.HostReadFollowsAddressMap : Prop :=
  ∀ (s : State) (a : Addr),
    (a.toNat ≤ 0x0FF → s.hostRead 1 a = (s.ibufAt a.toNat).setWidth 32) ∧
    (0x100 ≤ a.toNat → a.toNat ≤ 0x1FF → s.hostRead 1 a = (s.obufAt (a.toNat - 0x100)).setWidth 32) ∧
    (0x200 ≤ a.toNat → a.toNat ≤ 0x27F → a.toNat - 0x200 < s.cfg.N →
      s.hostRead 1 a = (s.accAt (a.toNat - 0x200)).setWidth 32) ∧
    (0x200 ≤ a.toNat → a.toNat ≤ 0x27F → s.cfg.N ≤ a.toNat - 0x200 → s.hostRead 1 a = 0) ∧
    (0x280 ≤ a.toNat → s.hostRead 1 a = 0) ∧
    (0x300 ≤ a.toNat → a.toNat ≤ 0x33F → a.toNat % 4 = 0 → s.hostRead 4 a = s.regRead ((a.toNat - 0x300) / 4)) ∧
    (a.toNat < 0x300 ∨ 0x33F < a.toNat ∨ a.toNat % 4 ≠ 0 → s.hostRead 4 a = 0) ∧
    (∀ n, n ≠ 1 → n ≠ 4 → s.hostRead n a = 0)

/-- R50, R29, R53: a byte write to IBUF changes that byte and no other; every other write that is no command word is
ignored. -/
def Obligations.HostWritesReachOnlyIbuf : Prop :=
  ∀ (s : State) (n : Nat) (a : Addr) (v : HostValue) (rest : List HostEvent), s.inReset = false →
    s.host = .write n a v :: rest →
    (n = 1 → a.toNat ≤ 0x0FF → ∃ t, step s = .next t ∧ t = { s with host := rest, ibuf := t.ibuf } ∧
      ∀ i, t.ibufAt i = if i = a.toNat then (s.hostValue v).setWidth 8 else s.ibufAt i) ∧
    (¬(n = 1 ∧ a.toNat ≤ 0x0FF) → ¬(n = 4 ∧ a.toNat = 0x300) → step s = .next { s with host := rest })

/-- R22 to R29: every register word as the sum of its fields at their bit positions. -/
def Obligations.RegisterWordsHoldTheirFields : Prop :=
  ∀ s : State,
    (s.regRead 0 = 0) ∧
    ((s.regRead 1).toNat = s.err.toNat + 4 * (if s.sdReady = 0 then 0 else 1) +
      8 * (match s.dfState with | .searching => 0 | .headerWait => 1 | .bodyWait => 2) + 256 * s.emits.toNat) ∧
    ((s.regRead 2).toNat = s.result.toNat) ∧
    ((s.regRead 3).toNat = s.sdReady.toNat) ∧
    ((s.regRead 4).toNat = s.sdPos.toNat + 256 * s.sdLast.toNat) ∧
    ((s.regRead 5).toNat = s.dfPush.toNat + 256 * s.dfLook.toNat +
      65536 * (if s.dfState = .searching then 255 else s.dfStart.toNat)) ∧
    (s.cfg.wf = true → (s.regRead 6).toNat = s.cfg.N + 256 * s.cfg.MAGIC.toNat + 65536 * 3) ∧
    ((s.regRead 7).toNat = s.cfg.END.toNat + 256 * s.cfg.ESC.toNat + 65536 * s.cfg.ESC_END.toNat +
      16777216 * s.cfg.ESC_ESC.toNat) ∧
    (∀ k, 8 ≤ k → s.regRead k = 0)

/-! ## Reset (10_state.md R39, 70_reset_and_hazards.md R210) -/

/-- R39: the value of every piece of state after reset, for every choice of the parameters: SEARCHING with no candidate,
the positions 0, no message, END as the lookback, the status fields 0, DOUT empty. A buffer byte not written since reset
reads as its free draw. -/
def Obligations.ResetStateIsAsListed : Prop :=
  ∀ (c : Params) (s : State), s = State.resetWith c →
    s.dfState = .searching ∧ s.startField = 0xFF ∧ s.dfPush = 0 ∧ s.dfLook = 0 ∧
    s.sdPos = 0 ∧ s.sdReady = 0 ∧ s.sdLast = c.END ∧ s.err = 0 ∧ s.emits = 0 ∧ s.result = 0 ∧ s.cfg = c ∧
    s.dout = [] ∧
    (∀ i, s.ibufAt i = Config.powerUpByte s.draw .ibuf i ∧ s.obufAt i = Config.powerUpByte s.draw .obuf i ∧
      s.accAt i = Config.powerUpByte s.draw .acc i) ∧
    s.regRead 1 = 0 ∧ s.regRead 2 = 0 ∧ s.regRead 3 = 0 ∧ s.regRead 4 = 0#16 ++ c.END ++ 0#8 ∧
    s.regRead 5 = 0x00FF0000

/-- R210: when reset is released, every piece of state of the block takes its reset value, whatever it was. The events of
the reset line, and that the host's sequence and read values stay, are the model's (log entry 7). -/
def Obligations.ReleaseOfResetRestoresState : Prop :=
  ∀ (s : State) (rest : List HostEvent), s.inReset = true → s.host = .releaseReset :: rest →
    ∃ t, step s = .next t ∧
      t = { State.resetWith s.cfg with host := rest, readLog := s.readLog, draw := t.draw }

/-- Host accesses while reset is asserted are refused (R211, U11; the model's choice, log entry 7); the reset input itself
can be asserted at any time and changes no other state until it is released. -/
def Obligations.HostAccessDuringResetIsRefused : Prop :=
  (∀ (s : State) (n : Nat) (a : Addr) (rest : List HostEvent), s.inReset = true → s.host = .read n a :: rest →
    step s = .refused .hostAccessDuringReset) ∧
  (∀ (s : State) (n : Nat) (a : Addr) (v : HostValue) (rest : List HostEvent), s.inReset = true →
    s.host = .write n a v :: rest → step s = .refused .hostAccessDuringReset) ∧
  (∀ (s : State) (rest : List HostEvent), s.host = .assertReset :: rest →
    step s = .next { s with host := rest, inReset := true })

/-! ## The assembler and several instances -/

/-- R86: an assembler writes 0 in every ignored field and refuses an operand that does not fit 8 bits; the line of a
command is the write of its word to CMD, and a step that meets that write runs the command. WR8, RD8, WR32 and RD32 are the
one access their row gives, of width 1 or 4, at the address and with the value of the line. That an address must fit 12 bits
and a WR32 value 32 bits is the model's reading (log entry 18). -/
def Obligations.AssembledCommandRuns : Prop :=
  (∀ a v : Nat, ((assembleLine (.wr8 a v)).isSome = true ↔ a < 4096 ∧ v < 256) ∧
    ((assembleLine (.wr32 a v)).isSome = true ↔ a < 4096 ∧ v < 4294967296)) ∧
  (∀ a : Nat, ((assembleLine (.rd8 a)).isSome = true ↔ a < 4096) ∧
    ((assembleLine (.rd32 a)).isSome = true ↔ a < 4096)) ∧
  (∀ (a v : Nat) (e : List HostEvent), assembleLine (.wr8 a v) = some e →
    ∃ (addr : Addr) (val : Word), e = [.write 1 addr (.lit val)] ∧ addr.toNat = a ∧ val.toNat = v) ∧
  (∀ (a v : Nat) (e : List HostEvent), assembleLine (.wr32 a v) = some e →
    ∃ (addr : Addr) (val : Word), e = [.write 4 addr (.lit val)] ∧ addr.toNat = a ∧ val.toNat = v) ∧
  (∀ (a : Nat) (e : List HostEvent), assembleLine (.rd8 a) = some e →
    ∃ addr : Addr, e = [.read 1 addr] ∧ addr.toNat = a) ∧
  (∀ (a : Nat) (e : List HostEvent), assembleLine (.rd32 a) = some e →
    ∃ addr : Addr, e = [.read 4 addr] ∧ addr.toNat = a) ∧
  (∀ (i : Instr) (s : State) (rest : List HostEvent), s.inReset = false → s.host = cmdEvent i :: rest →
    step s = exec i { s with host := rest }) ∧
  assembleLine .nop = some [.write 4 0x300 (.lit 0)] ∧
  (∀ a b c : Nat, (assembleLine (.chk a b c)).isSome = true ↔ a < 256 ∧ b < 256 ∧ c < 256) ∧
  (∀ a b : Nat, ((assembleLine (.senc a b)).isSome = true ↔ a < 256 ∧ b < 256) ∧
    ((assembleLine (.fenc a b)).isSome = true ↔ a < 256 ∧ b < 256)) ∧
  (∀ a : Nat, ((assembleLine (.sdec a)).isSome = true ↔ a < 256) ∧
    ((assembleLine (.dfr a)).isSome = true ↔ a < 256)) ∧
  (∀ (a b c : Nat) (e : List HostEvent), assembleLine (.chk a b c) = some e →
    e = [.write 4 0x300 (.lit (BitVec.ofNat 32 (0x10000000 + a * 65536 + b * 256 + c)))]) ∧
  (∀ (a b : Nat) (e : List HostEvent), assembleLine (.senc a b) = some e →
    e = [.write 4 0x300 (.lit (BitVec.ofNat 32 (0x20000000 + a * 256 + b)))]) ∧
  (∀ (a : Nat) (e : List HostEvent), assembleLine (.sdec a) = some e →
    e = [.write 4 0x300 (.lit (BitVec.ofNat 32 (0x30000000 + a * 65536)))]) ∧
  (∀ (a b : Nat) (e : List HostEvent), assembleLine (.fenc a b) = some e →
    e = [.write 4 0x300 (.lit (BitVec.ofNat 32 (0x40000000 + a * 256 + b)))]) ∧
  (∀ (a : Nat) (e : List HostEvent), assembleLine (.dfr a) = some e →
    e = [.write 4 0x300 (.lit (BitVec.ofNat 32 (0x50000000 + a * 65536)))])

/-- R87: CHK0, FENCM and SENCM are the commands with the operand they fix; LOAD, DFR.S and SDEC.S are their sequences of
one-byte lines, in order. That DFR.S and SDEC.S with no byte assemble, to no access, is the model's choice (log entry 18). -/
def Obligations.PseudoInstructionsExpand : Prop :=
  (∀ len off : Nat, assembleLine (.chk0 len off) = assembleLine (.chk 0 len off)) ∧
  (∀ len : Nat, assembleLine (.fencm len) = assembleLine (.fenc len 0xFF) ∧
    assembleLine (.sencm len) = assembleLine (.senc len 0xFF)) ∧
  (∀ (a : Nat) (bs : List Nat), bs ≠ [] →
    assembleLine (.load a bs) = assemble (bs.mapIdx fun i b => .wr8 (a + i) b)) ∧
  (∀ bs : List Nat, assembleLine (.dfrS bs) = assemble (bs.map .dfr) ∧
    assembleLine (.sdecS bs) = assemble (bs.map .sdec))

/-- The pseudo-instruction COPYOI of R87: run from any state out of reset, it copies `OBUF[0..len)` to `IBUF[0..len)` and
changes no other byte. How the host carries a value from a read to a write is the model's (log entry 6). -/
def Obligations.CopyoiCopiesObufToIbuf : Prop :=
  ∀ (s : State) (len : Nat) (es rest : List HostEvent), assembleLine (.copyoi len) = some es → s.inReset = false →
    s.host = es ++ rest →
    ∃ t : State, Sys2Proof.core.run (2 * len) s = .next t ∧ t.host = rest ∧
      (∀ i, t.ibufAt i = if i < len then s.obufAt i else s.ibufAt i) ∧
      t = { s with ibuf := t.ibuf, host := rest, readLog := t.readLog }

/-- R200: each instance of a system starts in its reset state, for its own parameters, and meets the invariant when they are
legal. Its unwritten bytes are a draw of its own, which no step of any instance hands to another; that the instance and its
reset name the draw is the model's choice (log entry 4). -/
def Obligations.InstancesStartInReset : Prop :=
  (∀ cs : List Params, (resetSystem cs).length = cs.length) ∧
  (∀ (cs : List Params) (k : Nat) (c : Params), cs[k]? = some c →
    ∃ s : State, (resetSystem cs)[k]? = some s ∧ s = { State.resetWith c with draw := s.draw } ∧
      (c.wf = true → s.ok = true) ∧
      ∀ i, s.ibufAt i = Config.powerUpByte s.draw .ibuf i ∧ s.obufAt i = Config.powerUpByte s.draw .obuf i ∧
        s.accAt i = Config.powerUpByte s.draw .acc i) ∧
  (∀ (cs : List Params) (j k : Nat) (s s' : State), j ≠ k → (resetSystem cs)[j]? = some s →
    (resetSystem cs)[k]? = some s' → s.draw.inst ≠ s'.draw.inst) ∧
  (∀ (j k : Nat) (sys sys' : List State) (s s' : State), stepInstance j sys = .next sys' →
    sys[k]? = some s → sys'[k]? = some s' → s'.draw.inst = s.draw.inst)

/-- R63: instances share nothing: a step of one leaves every other as it is, and steps of two instances commute. -/
def Obligations.InstancesDoNotInteract : Prop :=
  (∀ (k : Nat) (sys sys' : List State), stepInstance k sys = .next sys' →
    ∀ j, j ≠ k → sys'[j]? = sys[j]?) ∧
  (∀ (j k : Nat) (sys sys1 sys2 : List State), j ≠ k → stepInstance j sys = .next sys1 →
    stepInstance k sys = .next sys2 →
    ∃ sys', stepInstance k sys1 = .next sys' ∧ stepInstance j sys2 = .next sys')
end

