-- ==== Sys2Proof/Laws/Checksum.lean ====
section
/-! SUPPORT. The laws of the checksum function (spec/40_checksum.md R100, R101). -/

namespace Sys2Proof.Machine

@[simp] theorem chk_nil (seed : Byte) : chk [] seed = seed := rfl

theorem chk_cons (x : Byte) (s : List Byte) (seed : Byte) : chk (x :: s) seed = chk s (chkStep seed x) := rfl

/-- Chaining: the checksum of a later range is seeded by that of the earlier one. -/
theorem chk_append (s t : List Byte) (seed : Byte) : chk (s ++ t) seed = chk t (chk s seed) := by
  induction s generalizing seed with
  | nil => rfl
  | cons x s ih => exact ih _

/-- For a fixed byte a step is injective in the running value. -/
theorem chkStep_inj_left (c c' x : Byte) : chkStep c x = chkStep c' x ↔ c = c' := by
  unfold chkStep
  rw [add_left_inj, BitVec.xor_left_inj]

/-- For a fixed running value a step is injective in the byte. -/
theorem chkStep_inj_right (c x y : Byte) : chkStep c x = chkStep c y ↔ x = y := by
  unfold chkStep
  rw [add_left_inj, BitVec.xor_right_inj]

end Sys2Proof.Machine
end

