-- ==== Sys2Proof/Laws/Decode.lean ====
section
/-! SUPPORT. The fields of a packed command word, and that a word is its five fields (spec/30_encoding.md R80, R81). -/

namespace Sys2Proof

/-- The bits of a packed word, byte by byte from the low end. -/
theorem getLsbD_packWord (op a b c : Byte) (i : Nat) : (packWord op a b c).getLsbD i =
    if i < 8 then c.getLsbD i else if i - 8 < 8 then b.getLsbD (i - 8)
    else if i - 8 - 8 < 8 then a.getLsbD (i - 8 - 8) else op.getLsbD (i - 8 - 8 - 8) := by
  refine (BitVec.getLsbD_append (x := op ++ a ++ b) (y := c)).trans ?_
  rw [BitVec.getLsbD_append, BitVec.getLsbD_append]

theorem opField_packWord (op a b c : Byte) : opField (packWord op a b c) = op.extractLsb' 4 4 := by
  apply BitVec.eq_of_getLsbD_eq
  intro i hi
  have h1 : ¬ 28 + i < 8 := by omega
  have h2 : ¬ 28 + i - 8 < 8 := by omega
  have h3 : ¬ 28 + i - 8 - 8 < 8 := by omega
  have h4 : 28 + i - 8 - 8 - 8 = 4 + i := by omega
  simp [opField, getLsbD_packWord, h1, h2, h3, h4, hi]

theorem rsvField_packWord (op a b c : Byte) : rsvField (packWord op a b c) = op.extractLsb' 0 4 := by
  apply BitVec.eq_of_getLsbD_eq
  intro i hi
  have h1 : ¬ 24 + i < 8 := by omega
  have h2 : ¬ 24 + i - 8 < 8 := by omega
  have h3 : ¬ 24 + i - 8 - 8 < 8 := by omega
  have h4 : 24 + i - 8 - 8 - 8 = i := by omega
  simp [rsvField, getLsbD_packWord, h1, h2, h3, h4, hi]

theorem aField_packWord (op a b c : Byte) : aField (packWord op a b c) = a := by
  apply BitVec.eq_of_getLsbD_eq
  intro i hi
  have h1 : ¬ 16 + i < 8 := by omega
  have h2 : ¬ 16 + i - 8 < 8 := by omega
  have h3 : 16 + i - 8 - 8 = i := by omega
  simp [aField, getLsbD_packWord, h1, h2, h3, hi]

theorem bField_packWord (op a b c : Byte) : bField (packWord op a b c) = b := by
  apply BitVec.eq_of_getLsbD_eq
  intro i hi
  have h1 : ¬ 8 + i < 8 := by omega
  have h2 : 8 + i - 8 = i := by omega
  simp [bField, getLsbD_packWord, h1, h2, hi]

theorem cField_packWord (op a b c : Byte) : cField (packWord op a b c) = c := by
  apply BitVec.eq_of_getLsbD_eq
  intro i hi
  simp [cField, getLsbD_packWord, hi]

/-- A word is its top byte and its three operand bytes. -/
theorem packWord_fields (w : Word) :
    packWord (opField w ++ rsvField w) (aField w) (bField w) (cField w) = w := by
  apply BitVec.eq_of_getLsbD_eq
  intro i hi
  simp only [getLsbD_packWord, opField, rsvField, aField, bField, cField, BitVec.getLsbD_append,
    BitVec.getLsbD_extractLsb']
  by_cases h1 : i < 8
  · simp [h1]
  · by_cases h2 : i - 8 < 8
    · have : 8 + (i - 8) = i := by omega
      simp [h1, h2, this]
    · by_cases h3 : i - 8 - 8 < 8
      · have : 16 + (i - 8 - 8) = i := by omega
        simp [h1, h2, h3, this]
      · by_cases h4 : i - 8 - 8 - 8 < 4
        · have : 24 + (i - 8 - 8 - 8) = i := by omega
          simp [h1, h2, h3, h4, this]
        · have h5 : i - 8 - 8 - 8 - 4 < 4 := by omega
          have : 28 + (i - 8 - 8 - 8 - 4) = i := by omega
          simp [h1, h2, h3, h4, h5, this]

/-- Masking a packed word masks each byte with the mask's byte. -/
theorem packWord_and (op a b c op' a' b' c' : Byte) :
    packWord op a b c &&& packWord op' a' b' c' = packWord (op &&& op') (a &&& a') (b &&& b') (c &&& c') := by
  apply BitVec.eq_of_getLsbD_eq
  intro i hi
  simp only [getLsbD_packWord, BitVec.getLsbD_and]
  by_cases h1 : i < 8
  · simp [h1]
  · by_cases h2 : i - 8 < 8
    · simp [h1, h2]
    · by_cases h3 : i - 8 - 8 < 8 <;> simp [h1, h2, h3]

/-- Two packed words agree exactly when their four bytes do. -/
theorem packWord_inj (op a b c op' a' b' c' : Byte) :
    packWord op a b c = packWord op' a' b' c' ↔ op = op' ∧ a = a' ∧ b = b' ∧ c = c' := by
  constructor
  · intro h
    have ho : op = op' := by
      have h1 := congrArg opField h
      have h2 := congrArg rsvField h
      simp only [opField_packWord, rsvField_packWord] at h1 h2
      apply BitVec.eq_of_getLsbD_eq
      intro i hi
      by_cases h4 : i < 4
      · have := congrArg (fun v => v.getLsbD i) h2
        simpa [h4] using this
      · have := congrArg (fun v => v.getLsbD (i - 4)) h1
        have h5 : i - 4 < 4 := by omega
        have h6 : 4 + (i - 4) = i := by omega
        simpa [h5, h6] using this
    have ha := congrArg aField h
    have hb := congrArg bField h
    have hc := congrArg cField h
    simp only [aField_packWord, bField_packWord, cField_packWord] at ha hb hc
    exact ⟨ho, ha, hb, hc⟩
  · rintro ⟨rfl, rfl, rfl, rfl⟩
    rfl

/-- The mask of a command's fields, byte by byte. -/
theorem operandMask_packWord (i : Instr) : operandMask i =
    match i with
    | .nop => packWord 0xFF 0x00 0x00 0x00
    | .chk _ _ _ => packWord 0xFF 0xFF 0xFF 0xFF
    | .senc _ _ => packWord 0xFF 0x00 0xFF 0xFF
    | .sdec _ => packWord 0xFF 0xFF 0x00 0x00
    | .fenc _ _ => packWord 0xFF 0x00 0xFF 0xFF
    | .dfr _ => packWord 0xFF 0xFF 0x00 0x00 := by
  cases i <;> rfl

end Sys2Proof
end

