-- ==== Sys2Proof/Laws/Memory.lean ====
section
/-! SUPPORT. The laws of a buffer's memory: read after write, the canonical form and the size bound kept by every write,
and equal contents are equal data. -/

namespace Sys2Proof.Machine

namespace Memory

theorem get?_set_same (m : Memory) (i : Nat) (v : Byte) : (m.set i v).get? i = some v := by
  induction m with
  | nil => simp [set, get?]
  | cons c m ih =>
    obtain ⟨j, b⟩ := c
    simp only [set]
    split
    · simp [get?]
    · split
      · simp [get?]
      · rename_i _ hne
        simp [get?, hne, ih]

theorem get?_set_other (m : Memory) {i k : Nat} (h : k ≠ i) (v : Byte) : (m.set i v).get? k = m.get? k := by
  induction m with
  | nil => simp [set, get?, h]
  | cons c m ih =>
    obtain ⟨j, b⟩ := c
    simp only [set]
    split
    · simp [get?, h]
    · split
      · rename_i _ he
        subst he
        simp [get?, h]
      · simp [get?, ih]

/-- Read after write: the written index gives the byte, every other index what it gave before. -/
theorem get?_set (m : Memory) (i k : Nat) (v : Byte) :
    (m.set i v).get? k = if k = i then some v else m.get? k := by
  split
  · rename_i h
    rw [h, get?_set_same]
  · rename_i h
    exact get?_set_other m h v

/-- Read after write, as the block reads a byte. -/
theorem read_set (m : Memory) (d : Draw) (b : Buf) (i k : Nat) (v : Byte) :
    (m.set i v).read d b k = if k = i then v else m.read d b k := by
  unfold read
  rw [get?_set]
  by_cases h : k = i <;> simp [h]

theorem get?_setRange (m : Memory) (i : Nat) (bs : List Byte) (k : Nat) :
    (m.setRange i bs).get? k =
      if h : i ≤ k ∧ k < i + bs.length then some (bs[k - i]'(by omega)) else m.get? k := by
  induction bs generalizing m i with
  | nil =>
    have : ¬ (i ≤ k ∧ k < i) := by omega
    simp [setRange, this]
  | cons b bs ih =>
    simp only [setRange, ih, get?_set, List.length_cons]
    by_cases hk : k = i
    · subst hk
      simp
    · by_cases h : i + 1 ≤ k ∧ k < i + 1 + bs.length
      · obtain ⟨j, rfl⟩ : ∃ j, k = i + 1 + j := ⟨k - (i + 1), by omega⟩
        have h1 : i + 1 + j - (i + 1) = j := by omega
        have h2 : i + 1 + j - i = j + 1 := by omega
        have h3 : i + 1 + j < i + (bs.length + 1) := by omega
        have h4 : i + 1 + j < i + 1 + bs.length := by omega
        simp only [h1, h2, h3, h4, List.getElem_cons_succ]
        simp
        omega
      · have h' : ¬ (i ≤ k ∧ k < i + (bs.length + 1)) := by omega
        simp only [h, h', hk, dite_false, if_false]

/-- A range write through the block's read: the bytes of the range, and every other index as before. -/
theorem read_setRange (m : Memory) (d : Draw) (b : Buf) (i : Nat) (bs : List Byte) (k : Nat) :
    (m.setRange i bs).read d b k =
      if h : i ≤ k ∧ k < i + bs.length then bs[k - i]'(by omega) else m.read d b k := by
  unfold read
  rw [get?_setRange]
  by_cases h : i ≤ k ∧ k < i + bs.length
  · simp only [dif_pos h]
  · simp only [dif_neg h]

theorem wf_cons (c : Host.Cell) (m : Memory) (h : wf (c :: m) = true) : wf m = true := by
  cases m with
  | nil => rfl
  | cons d m => simp only [wf, Bool.and_eq_true] at h; exact h.2

/-- In canonical form every later index lies above the first. -/
theorem wf_lt (m : Memory) : ∀ (i : Nat) (b : Byte), wf ((i, b) :: m) = true → ∀ k, (m.get? k).isSome → i < k := by
  induction m with
  | nil => intro i b _ k hk; simp [get?] at hk
  | cons c m ih =>
    obtain ⟨j, b'⟩ := c
    intro i b h k hk
    simp only [wf, Bool.and_eq_true, decide_eq_true_eq] at h
    simp only [get?] at hk
    split at hk
    · omega
    · exact Nat.lt_trans h.1 (ih j b' h.2 k hk)

/-- A write keeps the canonical form. -/
theorem wf_set (m : Memory) (i : Nat) (v : Byte) (h : m.wf = true) : (m.set i v).wf = true := by
  induction m with
  | nil => rfl
  | cons c m ih =>
    obtain ⟨j, b⟩ := c
    have hm := ih (wf_cons _ _ h)
    simp only [set]
    split
    · rename_i hlt
      simp [wf, hlt, h]
    · split
      · rename_i _ he
        subst he
        cases m with
        | nil => rfl
        | cons d m => simpa [wf] using h
      · rename_i h1 h2
        cases m with
        | nil =>
          simp only [set, wf]
          simp
          omega
        | cons d m =>
          obtain ⟨k, b'⟩ := d
          simp only [wf, Bool.and_eq_true, decide_eq_true_eq] at h
          simp only [set] at hm ⊢
          split
          · rename_i hk
            simp only [hk, if_true] at hm
            simp only [wf, Bool.and_eq_true, decide_eq_true_eq] at hm ⊢
            exact ⟨by omega, by simpa [wf] using hm⟩
          · rename_i hk
            simp only [hk, if_false] at hm
            split
            · rename_i he
              subst he
              simp only [if_true] at hm
              simp only [wf, Bool.and_eq_true, decide_eq_true_eq]
              exact ⟨by omega, hm⟩
            · rename_i he
              simp only [he, if_false] at hm
              simp only [wf, Bool.and_eq_true, decide_eq_true_eq]
              exact ⟨h.1, hm⟩

/-- A write below the size keeps every index below it. -/
theorem below_set (m : Memory) (size i : Nat) (v : Byte) (h : m.below size = true) (hi : i < size) :
    (m.set i v).below size = true := by
  induction m with
  | nil => simp [set, below, hi]
  | cons c m ih =>
    obtain ⟨j, b⟩ := c
    simp only [below, List.all_cons, Bool.and_eq_true, decide_eq_true_eq] at h
    simp only [set]
    split
    · simp only [below, List.all_cons, Bool.and_eq_true, decide_eq_true_eq]
      exact ⟨hi, h⟩
    · split
      · simp only [below, List.all_cons, Bool.and_eq_true, decide_eq_true_eq]
        exact ⟨hi, h.2⟩
      · simp only [below, List.all_cons, Bool.and_eq_true, decide_eq_true_eq]
        exact ⟨h.1, ih h.2⟩

/-- A range write keeps the canonical form. -/
theorem wf_setRange (m : Memory) (i : Nat) (bs : List Byte) (h : m.wf = true) : (m.setRange i bs).wf = true := by
  induction bs generalizing m i with
  | nil => exact h
  | cons b bs ih => exact ih _ _ (wf_set m i b h)

/-- A range write that ends below the size keeps every index below it. -/
theorem below_setRange (m : Memory) (size i : Nat) (bs : List Byte) (h : m.below size = true)
    (hi : i + bs.length ≤ size) : (m.setRange i bs).below size = true := by
  induction bs generalizing m i with
  | nil => exact h
  | cons b bs ih =>
    simp only [List.length_cons] at hi
    exact ih _ _ (below_set m size i b h (by omega)) (by omega)

/-- Two memories in canonical form that give the same bytes are the same data. -/
theorem ext_of_wf (m n : Memory) (hm : m.wf = true) (hn : n.wf = true) (h : ∀ i, m.get? i = n.get? i) : m = n := by
  induction m generalizing n with
  | nil =>
    cases n with
    | nil => rfl
    | cons d n =>
      have := h d.1
      simp [get?] at this
  | cons c m ih =>
    obtain ⟨i, b⟩ := c
    cases n with
    | nil =>
      have := h i
      simp [get?] at this
    | cons d n =>
      obtain ⟨j, b'⟩ := d
      have hij : i = j := by
        by_contra hne
        have h1 : (get? n i).isSome := by
          have := h i
          simp only [get?, if_true, hne, if_false] at this
          simp [← this]
        have h2 : (get? m j).isSome := by
          have := h j
          simp only [get?, if_true, if_neg (Ne.symm hne)] at this
          simp [this]
        have := wf_lt n j b' hn i h1
        have := wf_lt m i b hm j h2
        omega
      subst hij
      have hb : b = b' := by
        have := h i
        simpa [get?] using this
      subst hb
      congr 1
      apply ih n (wf_cons _ _ hm) (wf_cons _ _ hn)
      intro k
      by_cases hk : k = i
      · subst hk
        cases e1 : get? m k with
        | some x => exact absurd (wf_lt m k b hm k (by simp [e1])) (Nat.lt_irrefl k)
        | none =>
          cases e2 : get? n k with
          | some x => exact absurd (wf_lt n k b hn k (by simp [e2])) (Nat.lt_irrefl k)
          | none => rfl
      · have := h k
        simpa [get?, hk] using this

end Memory

end Sys2Proof.Machine
end

