-- ==== Sys2Proof/Laws/State.lean ====
section
/-! SUPPORT. The state's own simp set: for every named update and every field, what the field holds after it. -/

namespace Sys2Proof.Machine.State

variable (s : State)

section
variable (v : BitVec 2)
@[simp] theorem setErr_cfg : (s.setErr v).cfg = s.cfg := rfl
@[simp] theorem setErr_err : (s.setErr v).err = v := rfl
@[simp] theorem setErr_emits : (s.setErr v).emits = s.emits := rfl
@[simp] theorem setErr_result : (s.setErr v).result = s.result := rfl
@[simp] theorem setErr_ibuf : (s.setErr v).ibuf = s.ibuf := rfl
@[simp] theorem setErr_obuf : (s.setErr v).obuf = s.obuf := rfl
@[simp] theorem setErr_acc : (s.setErr v).acc = s.acc := rfl
@[simp] theorem setErr_ring : (s.setErr v).ring = s.ring := rfl
@[simp] theorem setErr_sdLast : (s.setErr v).sdLast = s.sdLast := rfl
@[simp] theorem setErr_sdPos : (s.setErr v).sdPos = s.sdPos := rfl
@[simp] theorem setErr_sdReady : (s.setErr v).sdReady = s.sdReady := rfl
@[simp] theorem setErr_dfState : (s.setErr v).dfState = s.dfState := rfl
@[simp] theorem setErr_dfPush : (s.setErr v).dfPush = s.dfPush := rfl
@[simp] theorem setErr_dfLook : (s.setErr v).dfLook = s.dfLook := rfl
@[simp] theorem setErr_dfStart : (s.setErr v).dfStart = s.dfStart := rfl
@[simp] theorem setErr_dout : (s.setErr v).dout = s.dout := rfl
@[simp] theorem setErr_inReset : (s.setErr v).inReset = s.inReset := rfl
@[simp] theorem setErr_host : (s.setErr v).host = s.host := rfl
@[simp] theorem setErr_readLog : (s.setErr v).readLog = s.readLog := rfl
@[simp] theorem setErr_draw : (s.setErr v).draw = s.draw := rfl
end

section
variable (v : Byte)
@[simp] theorem setEmits_cfg : (s.setEmits v).cfg = s.cfg := rfl
@[simp] theorem setEmits_err : (s.setEmits v).err = s.err := rfl
@[simp] theorem setEmits_emits : (s.setEmits v).emits = v := rfl
@[simp] theorem setEmits_result : (s.setEmits v).result = s.result := rfl
@[simp] theorem setEmits_ibuf : (s.setEmits v).ibuf = s.ibuf := rfl
@[simp] theorem setEmits_obuf : (s.setEmits v).obuf = s.obuf := rfl
@[simp] theorem setEmits_acc : (s.setEmits v).acc = s.acc := rfl
@[simp] theorem setEmits_ring : (s.setEmits v).ring = s.ring := rfl
@[simp] theorem setEmits_sdLast : (s.setEmits v).sdLast = s.sdLast := rfl
@[simp] theorem setEmits_sdPos : (s.setEmits v).sdPos = s.sdPos := rfl
@[simp] theorem setEmits_sdReady : (s.setEmits v).sdReady = s.sdReady := rfl
@[simp] theorem setEmits_dfState : (s.setEmits v).dfState = s.dfState := rfl
@[simp] theorem setEmits_dfPush : (s.setEmits v).dfPush = s.dfPush := rfl
@[simp] theorem setEmits_dfLook : (s.setEmits v).dfLook = s.dfLook := rfl
@[simp] theorem setEmits_dfStart : (s.setEmits v).dfStart = s.dfStart := rfl
@[simp] theorem setEmits_dout : (s.setEmits v).dout = s.dout := rfl
@[simp] theorem setEmits_inReset : (s.setEmits v).inReset = s.inReset := rfl
@[simp] theorem setEmits_host : (s.setEmits v).host = s.host := rfl
@[simp] theorem setEmits_readLog : (s.setEmits v).readLog = s.readLog := rfl
@[simp] theorem setEmits_draw : (s.setEmits v).draw = s.draw := rfl
end

section
variable (v : Byte)
@[simp] theorem setResult_cfg : (s.setResult v).cfg = s.cfg := rfl
@[simp] theorem setResult_err : (s.setResult v).err = s.err := rfl
@[simp] theorem setResult_emits : (s.setResult v).emits = s.emits := rfl
@[simp] theorem setResult_result : (s.setResult v).result = v := rfl
@[simp] theorem setResult_ibuf : (s.setResult v).ibuf = s.ibuf := rfl
@[simp] theorem setResult_obuf : (s.setResult v).obuf = s.obuf := rfl
@[simp] theorem setResult_acc : (s.setResult v).acc = s.acc := rfl
@[simp] theorem setResult_ring : (s.setResult v).ring = s.ring := rfl
@[simp] theorem setResult_sdLast : (s.setResult v).sdLast = s.sdLast := rfl
@[simp] theorem setResult_sdPos : (s.setResult v).sdPos = s.sdPos := rfl
@[simp] theorem setResult_sdReady : (s.setResult v).sdReady = s.sdReady := rfl
@[simp] theorem setResult_dfState : (s.setResult v).dfState = s.dfState := rfl
@[simp] theorem setResult_dfPush : (s.setResult v).dfPush = s.dfPush := rfl
@[simp] theorem setResult_dfLook : (s.setResult v).dfLook = s.dfLook := rfl
@[simp] theorem setResult_dfStart : (s.setResult v).dfStart = s.dfStart := rfl
@[simp] theorem setResult_dout : (s.setResult v).dout = s.dout := rfl
@[simp] theorem setResult_inReset : (s.setResult v).inReset = s.inReset := rfl
@[simp] theorem setResult_host : (s.setResult v).host = s.host := rfl
@[simp] theorem setResult_readLog : (s.setResult v).readLog = s.readLog := rfl
@[simp] theorem setResult_draw : (s.setResult v).draw = s.draw := rfl
end

section
variable (v : Memory)
@[simp] theorem setIbuf_cfg : (s.setIbuf v).cfg = s.cfg := rfl
@[simp] theorem setIbuf_err : (s.setIbuf v).err = s.err := rfl
@[simp] theorem setIbuf_emits : (s.setIbuf v).emits = s.emits := rfl
@[simp] theorem setIbuf_result : (s.setIbuf v).result = s.result := rfl
@[simp] theorem setIbuf_ibuf : (s.setIbuf v).ibuf = v := rfl
@[simp] theorem setIbuf_obuf : (s.setIbuf v).obuf = s.obuf := rfl
@[simp] theorem setIbuf_acc : (s.setIbuf v).acc = s.acc := rfl
@[simp] theorem setIbuf_ring : (s.setIbuf v).ring = s.ring := rfl
@[simp] theorem setIbuf_sdLast : (s.setIbuf v).sdLast = s.sdLast := rfl
@[simp] theorem setIbuf_sdPos : (s.setIbuf v).sdPos = s.sdPos := rfl
@[simp] theorem setIbuf_sdReady : (s.setIbuf v).sdReady = s.sdReady := rfl
@[simp] theorem setIbuf_dfState : (s.setIbuf v).dfState = s.dfState := rfl
@[simp] theorem setIbuf_dfPush : (s.setIbuf v).dfPush = s.dfPush := rfl
@[simp] theorem setIbuf_dfLook : (s.setIbuf v).dfLook = s.dfLook := rfl
@[simp] theorem setIbuf_dfStart : (s.setIbuf v).dfStart = s.dfStart := rfl
@[simp] theorem setIbuf_dout : (s.setIbuf v).dout = s.dout := rfl
@[simp] theorem setIbuf_inReset : (s.setIbuf v).inReset = s.inReset := rfl
@[simp] theorem setIbuf_host : (s.setIbuf v).host = s.host := rfl
@[simp] theorem setIbuf_readLog : (s.setIbuf v).readLog = s.readLog := rfl
@[simp] theorem setIbuf_draw : (s.setIbuf v).draw = s.draw := rfl
end

section
variable (v : Memory)
@[simp] theorem setObuf_cfg : (s.setObuf v).cfg = s.cfg := rfl
@[simp] theorem setObuf_err : (s.setObuf v).err = s.err := rfl
@[simp] theorem setObuf_emits : (s.setObuf v).emits = s.emits := rfl
@[simp] theorem setObuf_result : (s.setObuf v).result = s.result := rfl
@[simp] theorem setObuf_ibuf : (s.setObuf v).ibuf = s.ibuf := rfl
@[simp] theorem setObuf_obuf : (s.setObuf v).obuf = v := rfl
@[simp] theorem setObuf_acc : (s.setObuf v).acc = s.acc := rfl
@[simp] theorem setObuf_ring : (s.setObuf v).ring = s.ring := rfl
@[simp] theorem setObuf_sdLast : (s.setObuf v).sdLast = s.sdLast := rfl
@[simp] theorem setObuf_sdPos : (s.setObuf v).sdPos = s.sdPos := rfl
@[simp] theorem setObuf_sdReady : (s.setObuf v).sdReady = s.sdReady := rfl
@[simp] theorem setObuf_dfState : (s.setObuf v).dfState = s.dfState := rfl
@[simp] theorem setObuf_dfPush : (s.setObuf v).dfPush = s.dfPush := rfl
@[simp] theorem setObuf_dfLook : (s.setObuf v).dfLook = s.dfLook := rfl
@[simp] theorem setObuf_dfStart : (s.setObuf v).dfStart = s.dfStart := rfl
@[simp] theorem setObuf_dout : (s.setObuf v).dout = s.dout := rfl
@[simp] theorem setObuf_inReset : (s.setObuf v).inReset = s.inReset := rfl
@[simp] theorem setObuf_host : (s.setObuf v).host = s.host := rfl
@[simp] theorem setObuf_readLog : (s.setObuf v).readLog = s.readLog := rfl
@[simp] theorem setObuf_draw : (s.setObuf v).draw = s.draw := rfl
end

section
variable (v : Memory)
@[simp] theorem setAcc_cfg : (s.setAcc v).cfg = s.cfg := rfl
@[simp] theorem setAcc_err : (s.setAcc v).err = s.err := rfl
@[simp] theorem setAcc_emits : (s.setAcc v).emits = s.emits := rfl
@[simp] theorem setAcc_result : (s.setAcc v).result = s.result := rfl
@[simp] theorem setAcc_ibuf : (s.setAcc v).ibuf = s.ibuf := rfl
@[simp] theorem setAcc_obuf : (s.setAcc v).obuf = s.obuf := rfl
@[simp] theorem setAcc_acc : (s.setAcc v).acc = v := rfl
@[simp] theorem setAcc_ring : (s.setAcc v).ring = s.ring := rfl
@[simp] theorem setAcc_sdLast : (s.setAcc v).sdLast = s.sdLast := rfl
@[simp] theorem setAcc_sdPos : (s.setAcc v).sdPos = s.sdPos := rfl
@[simp] theorem setAcc_sdReady : (s.setAcc v).sdReady = s.sdReady := rfl
@[simp] theorem setAcc_dfState : (s.setAcc v).dfState = s.dfState := rfl
@[simp] theorem setAcc_dfPush : (s.setAcc v).dfPush = s.dfPush := rfl
@[simp] theorem setAcc_dfLook : (s.setAcc v).dfLook = s.dfLook := rfl
@[simp] theorem setAcc_dfStart : (s.setAcc v).dfStart = s.dfStart := rfl
@[simp] theorem setAcc_dout : (s.setAcc v).dout = s.dout := rfl
@[simp] theorem setAcc_inReset : (s.setAcc v).inReset = s.inReset := rfl
@[simp] theorem setAcc_host : (s.setAcc v).host = s.host := rfl
@[simp] theorem setAcc_readLog : (s.setAcc v).readLog = s.readLog := rfl
@[simp] theorem setAcc_draw : (s.setAcc v).draw = s.draw := rfl
end

section
variable (v : Memory)
@[simp] theorem setRing_cfg : (s.setRing v).cfg = s.cfg := rfl
@[simp] theorem setRing_err : (s.setRing v).err = s.err := rfl
@[simp] theorem setRing_emits : (s.setRing v).emits = s.emits := rfl
@[simp] theorem setRing_result : (s.setRing v).result = s.result := rfl
@[simp] theorem setRing_ibuf : (s.setRing v).ibuf = s.ibuf := rfl
@[simp] theorem setRing_obuf : (s.setRing v).obuf = s.obuf := rfl
@[simp] theorem setRing_acc : (s.setRing v).acc = s.acc := rfl
@[simp] theorem setRing_ring : (s.setRing v).ring = v := rfl
@[simp] theorem setRing_sdLast : (s.setRing v).sdLast = s.sdLast := rfl
@[simp] theorem setRing_sdPos : (s.setRing v).sdPos = s.sdPos := rfl
@[simp] theorem setRing_sdReady : (s.setRing v).sdReady = s.sdReady := rfl
@[simp] theorem setRing_dfState : (s.setRing v).dfState = s.dfState := rfl
@[simp] theorem setRing_dfPush : (s.setRing v).dfPush = s.dfPush := rfl
@[simp] theorem setRing_dfLook : (s.setRing v).dfLook = s.dfLook := rfl
@[simp] theorem setRing_dfStart : (s.setRing v).dfStart = s.dfStart := rfl
@[simp] theorem setRing_dout : (s.setRing v).dout = s.dout := rfl
@[simp] theorem setRing_inReset : (s.setRing v).inReset = s.inReset := rfl
@[simp] theorem setRing_host : (s.setRing v).host = s.host := rfl
@[simp] theorem setRing_readLog : (s.setRing v).readLog = s.readLog := rfl
@[simp] theorem setRing_draw : (s.setRing v).draw = s.draw := rfl
end

section
variable (v : Byte)
@[simp] theorem setSdLast_cfg : (s.setSdLast v).cfg = s.cfg := rfl
@[simp] theorem setSdLast_err : (s.setSdLast v).err = s.err := rfl
@[simp] theorem setSdLast_emits : (s.setSdLast v).emits = s.emits := rfl
@[simp] theorem setSdLast_result : (s.setSdLast v).result = s.result := rfl
@[simp] theorem setSdLast_ibuf : (s.setSdLast v).ibuf = s.ibuf := rfl
@[simp] theorem setSdLast_obuf : (s.setSdLast v).obuf = s.obuf := rfl
@[simp] theorem setSdLast_acc : (s.setSdLast v).acc = s.acc := rfl
@[simp] theorem setSdLast_ring : (s.setSdLast v).ring = s.ring := rfl
@[simp] theorem setSdLast_sdLast : (s.setSdLast v).sdLast = v := rfl
@[simp] theorem setSdLast_sdPos : (s.setSdLast v).sdPos = s.sdPos := rfl
@[simp] theorem setSdLast_sdReady : (s.setSdLast v).sdReady = s.sdReady := rfl
@[simp] theorem setSdLast_dfState : (s.setSdLast v).dfState = s.dfState := rfl
@[simp] theorem setSdLast_dfPush : (s.setSdLast v).dfPush = s.dfPush := rfl
@[simp] theorem setSdLast_dfLook : (s.setSdLast v).dfLook = s.dfLook := rfl
@[simp] theorem setSdLast_dfStart : (s.setSdLast v).dfStart = s.dfStart := rfl
@[simp] theorem setSdLast_dout : (s.setSdLast v).dout = s.dout := rfl
@[simp] theorem setSdLast_inReset : (s.setSdLast v).inReset = s.inReset := rfl
@[simp] theorem setSdLast_host : (s.setSdLast v).host = s.host := rfl
@[simp] theorem setSdLast_readLog : (s.setSdLast v).readLog = s.readLog := rfl
@[simp] theorem setSdLast_draw : (s.setSdLast v).draw = s.draw := rfl
end

section
variable (v : Byte)
@[simp] theorem setSdPos_cfg : (s.setSdPos v).cfg = s.cfg := rfl
@[simp] theorem setSdPos_err : (s.setSdPos v).err = s.err := rfl
@[simp] theorem setSdPos_emits : (s.setSdPos v).emits = s.emits := rfl
@[simp] theorem setSdPos_result : (s.setSdPos v).result = s.result := rfl
@[simp] theorem setSdPos_ibuf : (s.setSdPos v).ibuf = s.ibuf := rfl
@[simp] theorem setSdPos_obuf : (s.setSdPos v).obuf = s.obuf := rfl
@[simp] theorem setSdPos_acc : (s.setSdPos v).acc = s.acc := rfl
@[simp] theorem setSdPos_ring : (s.setSdPos v).ring = s.ring := rfl
@[simp] theorem setSdPos_sdLast : (s.setSdPos v).sdLast = s.sdLast := rfl
@[simp] theorem setSdPos_sdPos : (s.setSdPos v).sdPos = v := rfl
@[simp] theorem setSdPos_sdReady : (s.setSdPos v).sdReady = s.sdReady := rfl
@[simp] theorem setSdPos_dfState : (s.setSdPos v).dfState = s.dfState := rfl
@[simp] theorem setSdPos_dfPush : (s.setSdPos v).dfPush = s.dfPush := rfl
@[simp] theorem setSdPos_dfLook : (s.setSdPos v).dfLook = s.dfLook := rfl
@[simp] theorem setSdPos_dfStart : (s.setSdPos v).dfStart = s.dfStart := rfl
@[simp] theorem setSdPos_dout : (s.setSdPos v).dout = s.dout := rfl
@[simp] theorem setSdPos_inReset : (s.setSdPos v).inReset = s.inReset := rfl
@[simp] theorem setSdPos_host : (s.setSdPos v).host = s.host := rfl
@[simp] theorem setSdPos_readLog : (s.setSdPos v).readLog = s.readLog := rfl
@[simp] theorem setSdPos_draw : (s.setSdPos v).draw = s.draw := rfl
end

section
variable (v : Byte)
@[simp] theorem setSdReady_cfg : (s.setSdReady v).cfg = s.cfg := rfl
@[simp] theorem setSdReady_err : (s.setSdReady v).err = s.err := rfl
@[simp] theorem setSdReady_emits : (s.setSdReady v).emits = s.emits := rfl
@[simp] theorem setSdReady_result : (s.setSdReady v).result = s.result := rfl
@[simp] theorem setSdReady_ibuf : (s.setSdReady v).ibuf = s.ibuf := rfl
@[simp] theorem setSdReady_obuf : (s.setSdReady v).obuf = s.obuf := rfl
@[simp] theorem setSdReady_acc : (s.setSdReady v).acc = s.acc := rfl
@[simp] theorem setSdReady_ring : (s.setSdReady v).ring = s.ring := rfl
@[simp] theorem setSdReady_sdLast : (s.setSdReady v).sdLast = s.sdLast := rfl
@[simp] theorem setSdReady_sdPos : (s.setSdReady v).sdPos = s.sdPos := rfl
@[simp] theorem setSdReady_sdReady : (s.setSdReady v).sdReady = v := rfl
@[simp] theorem setSdReady_dfState : (s.setSdReady v).dfState = s.dfState := rfl
@[simp] theorem setSdReady_dfPush : (s.setSdReady v).dfPush = s.dfPush := rfl
@[simp] theorem setSdReady_dfLook : (s.setSdReady v).dfLook = s.dfLook := rfl
@[simp] theorem setSdReady_dfStart : (s.setSdReady v).dfStart = s.dfStart := rfl
@[simp] theorem setSdReady_dout : (s.setSdReady v).dout = s.dout := rfl
@[simp] theorem setSdReady_inReset : (s.setSdReady v).inReset = s.inReset := rfl
@[simp] theorem setSdReady_host : (s.setSdReady v).host = s.host := rfl
@[simp] theorem setSdReady_readLog : (s.setSdReady v).readLog = s.readLog := rfl
@[simp] theorem setSdReady_draw : (s.setSdReady v).draw = s.draw := rfl
end

section
variable (v : DfrState)
@[simp] theorem setDfState_cfg : (s.setDfState v).cfg = s.cfg := rfl
@[simp] theorem setDfState_err : (s.setDfState v).err = s.err := rfl
@[simp] theorem setDfState_emits : (s.setDfState v).emits = s.emits := rfl
@[simp] theorem setDfState_result : (s.setDfState v).result = s.result := rfl
@[simp] theorem setDfState_ibuf : (s.setDfState v).ibuf = s.ibuf := rfl
@[simp] theorem setDfState_obuf : (s.setDfState v).obuf = s.obuf := rfl
@[simp] theorem setDfState_acc : (s.setDfState v).acc = s.acc := rfl
@[simp] theorem setDfState_ring : (s.setDfState v).ring = s.ring := rfl
@[simp] theorem setDfState_sdLast : (s.setDfState v).sdLast = s.sdLast := rfl
@[simp] theorem setDfState_sdPos : (s.setDfState v).sdPos = s.sdPos := rfl
@[simp] theorem setDfState_sdReady : (s.setDfState v).sdReady = s.sdReady := rfl
@[simp] theorem setDfState_dfState : (s.setDfState v).dfState = v := rfl
@[simp] theorem setDfState_dfPush : (s.setDfState v).dfPush = s.dfPush := rfl
@[simp] theorem setDfState_dfLook : (s.setDfState v).dfLook = s.dfLook := rfl
@[simp] theorem setDfState_dfStart : (s.setDfState v).dfStart = s.dfStart := rfl
@[simp] theorem setDfState_dout : (s.setDfState v).dout = s.dout := rfl
@[simp] theorem setDfState_inReset : (s.setDfState v).inReset = s.inReset := rfl
@[simp] theorem setDfState_host : (s.setDfState v).host = s.host := rfl
@[simp] theorem setDfState_readLog : (s.setDfState v).readLog = s.readLog := rfl
@[simp] theorem setDfState_draw : (s.setDfState v).draw = s.draw := rfl
end

section
variable (v : Byte)
@[simp] theorem setDfPush_cfg : (s.setDfPush v).cfg = s.cfg := rfl
@[simp] theorem setDfPush_err : (s.setDfPush v).err = s.err := rfl
@[simp] theorem setDfPush_emits : (s.setDfPush v).emits = s.emits := rfl
@[simp] theorem setDfPush_result : (s.setDfPush v).result = s.result := rfl
@[simp] theorem setDfPush_ibuf : (s.setDfPush v).ibuf = s.ibuf := rfl
@[simp] theorem setDfPush_obuf : (s.setDfPush v).obuf = s.obuf := rfl
@[simp] theorem setDfPush_acc : (s.setDfPush v).acc = s.acc := rfl
@[simp] theorem setDfPush_ring : (s.setDfPush v).ring = s.ring := rfl
@[simp] theorem setDfPush_sdLast : (s.setDfPush v).sdLast = s.sdLast := rfl
@[simp] theorem setDfPush_sdPos : (s.setDfPush v).sdPos = s.sdPos := rfl
@[simp] theorem setDfPush_sdReady : (s.setDfPush v).sdReady = s.sdReady := rfl
@[simp] theorem setDfPush_dfState : (s.setDfPush v).dfState = s.dfState := rfl
@[simp] theorem setDfPush_dfPush : (s.setDfPush v).dfPush = v := rfl
@[simp] theorem setDfPush_dfLook : (s.setDfPush v).dfLook = s.dfLook := rfl
@[simp] theorem setDfPush_dfStart : (s.setDfPush v).dfStart = s.dfStart := rfl
@[simp] theorem setDfPush_dout : (s.setDfPush v).dout = s.dout := rfl
@[simp] theorem setDfPush_inReset : (s.setDfPush v).inReset = s.inReset := rfl
@[simp] theorem setDfPush_host : (s.setDfPush v).host = s.host := rfl
@[simp] theorem setDfPush_readLog : (s.setDfPush v).readLog = s.readLog := rfl
@[simp] theorem setDfPush_draw : (s.setDfPush v).draw = s.draw := rfl
end

section
variable (v : Byte)
@[simp] theorem setDfLook_cfg : (s.setDfLook v).cfg = s.cfg := rfl
@[simp] theorem setDfLook_err : (s.setDfLook v).err = s.err := rfl
@[simp] theorem setDfLook_emits : (s.setDfLook v).emits = s.emits := rfl
@[simp] theorem setDfLook_result : (s.setDfLook v).result = s.result := rfl
@[simp] theorem setDfLook_ibuf : (s.setDfLook v).ibuf = s.ibuf := rfl
@[simp] theorem setDfLook_obuf : (s.setDfLook v).obuf = s.obuf := rfl
@[simp] theorem setDfLook_acc : (s.setDfLook v).acc = s.acc := rfl
@[simp] theorem setDfLook_ring : (s.setDfLook v).ring = s.ring := rfl
@[simp] theorem setDfLook_sdLast : (s.setDfLook v).sdLast = s.sdLast := rfl
@[simp] theorem setDfLook_sdPos : (s.setDfLook v).sdPos = s.sdPos := rfl
@[simp] theorem setDfLook_sdReady : (s.setDfLook v).sdReady = s.sdReady := rfl
@[simp] theorem setDfLook_dfState : (s.setDfLook v).dfState = s.dfState := rfl
@[simp] theorem setDfLook_dfPush : (s.setDfLook v).dfPush = s.dfPush := rfl
@[simp] theorem setDfLook_dfLook : (s.setDfLook v).dfLook = v := rfl
@[simp] theorem setDfLook_dfStart : (s.setDfLook v).dfStart = s.dfStart := rfl
@[simp] theorem setDfLook_dout : (s.setDfLook v).dout = s.dout := rfl
@[simp] theorem setDfLook_inReset : (s.setDfLook v).inReset = s.inReset := rfl
@[simp] theorem setDfLook_host : (s.setDfLook v).host = s.host := rfl
@[simp] theorem setDfLook_readLog : (s.setDfLook v).readLog = s.readLog := rfl
@[simp] theorem setDfLook_draw : (s.setDfLook v).draw = s.draw := rfl
end

section
variable (v : Byte)
@[simp] theorem setDfStart_cfg : (s.setDfStart v).cfg = s.cfg := rfl
@[simp] theorem setDfStart_err : (s.setDfStart v).err = s.err := rfl
@[simp] theorem setDfStart_emits : (s.setDfStart v).emits = s.emits := rfl
@[simp] theorem setDfStart_result : (s.setDfStart v).result = s.result := rfl
@[simp] theorem setDfStart_ibuf : (s.setDfStart v).ibuf = s.ibuf := rfl
@[simp] theorem setDfStart_obuf : (s.setDfStart v).obuf = s.obuf := rfl
@[simp] theorem setDfStart_acc : (s.setDfStart v).acc = s.acc := rfl
@[simp] theorem setDfStart_ring : (s.setDfStart v).ring = s.ring := rfl
@[simp] theorem setDfStart_sdLast : (s.setDfStart v).sdLast = s.sdLast := rfl
@[simp] theorem setDfStart_sdPos : (s.setDfStart v).sdPos = s.sdPos := rfl
@[simp] theorem setDfStart_sdReady : (s.setDfStart v).sdReady = s.sdReady := rfl
@[simp] theorem setDfStart_dfState : (s.setDfStart v).dfState = s.dfState := rfl
@[simp] theorem setDfStart_dfPush : (s.setDfStart v).dfPush = s.dfPush := rfl
@[simp] theorem setDfStart_dfLook : (s.setDfStart v).dfLook = s.dfLook := rfl
@[simp] theorem setDfStart_dfStart : (s.setDfStart v).dfStart = v := rfl
@[simp] theorem setDfStart_dout : (s.setDfStart v).dout = s.dout := rfl
@[simp] theorem setDfStart_inReset : (s.setDfStart v).inReset = s.inReset := rfl
@[simp] theorem setDfStart_host : (s.setDfStart v).host = s.host := rfl
@[simp] theorem setDfStart_readLog : (s.setDfStart v).readLog = s.readLog := rfl
@[simp] theorem setDfStart_draw : (s.setDfStart v).draw = s.draw := rfl
end

section
variable (v : Bool)
@[simp] theorem setInReset_cfg : (s.setInReset v).cfg = s.cfg := rfl
@[simp] theorem setInReset_err : (s.setInReset v).err = s.err := rfl
@[simp] theorem setInReset_emits : (s.setInReset v).emits = s.emits := rfl
@[simp] theorem setInReset_result : (s.setInReset v).result = s.result := rfl
@[simp] theorem setInReset_ibuf : (s.setInReset v).ibuf = s.ibuf := rfl
@[simp] theorem setInReset_obuf : (s.setInReset v).obuf = s.obuf := rfl
@[simp] theorem setInReset_acc : (s.setInReset v).acc = s.acc := rfl
@[simp] theorem setInReset_ring : (s.setInReset v).ring = s.ring := rfl
@[simp] theorem setInReset_sdLast : (s.setInReset v).sdLast = s.sdLast := rfl
@[simp] theorem setInReset_sdPos : (s.setInReset v).sdPos = s.sdPos := rfl
@[simp] theorem setInReset_sdReady : (s.setInReset v).sdReady = s.sdReady := rfl
@[simp] theorem setInReset_dfState : (s.setInReset v).dfState = s.dfState := rfl
@[simp] theorem setInReset_dfPush : (s.setInReset v).dfPush = s.dfPush := rfl
@[simp] theorem setInReset_dfLook : (s.setInReset v).dfLook = s.dfLook := rfl
@[simp] theorem setInReset_dfStart : (s.setInReset v).dfStart = s.dfStart := rfl
@[simp] theorem setInReset_dout : (s.setInReset v).dout = s.dout := rfl
@[simp] theorem setInReset_inReset : (s.setInReset v).inReset = v := rfl
@[simp] theorem setInReset_host : (s.setInReset v).host = s.host := rfl
@[simp] theorem setInReset_readLog : (s.setInReset v).readLog = s.readLog := rfl
@[simp] theorem setInReset_draw : (s.setInReset v).draw = s.draw := rfl
end

section
variable (v : List HostEvent)
@[simp] theorem setHost_cfg : (s.setHost v).cfg = s.cfg := rfl
@[simp] theorem setHost_err : (s.setHost v).err = s.err := rfl
@[simp] theorem setHost_emits : (s.setHost v).emits = s.emits := rfl
@[simp] theorem setHost_result : (s.setHost v).result = s.result := rfl
@[simp] theorem setHost_ibuf : (s.setHost v).ibuf = s.ibuf := rfl
@[simp] theorem setHost_obuf : (s.setHost v).obuf = s.obuf := rfl
@[simp] theorem setHost_acc : (s.setHost v).acc = s.acc := rfl
@[simp] theorem setHost_ring : (s.setHost v).ring = s.ring := rfl
@[simp] theorem setHost_sdLast : (s.setHost v).sdLast = s.sdLast := rfl
@[simp] theorem setHost_sdPos : (s.setHost v).sdPos = s.sdPos := rfl
@[simp] theorem setHost_sdReady : (s.setHost v).sdReady = s.sdReady := rfl
@[simp] theorem setHost_dfState : (s.setHost v).dfState = s.dfState := rfl
@[simp] theorem setHost_dfPush : (s.setHost v).dfPush = s.dfPush := rfl
@[simp] theorem setHost_dfLook : (s.setHost v).dfLook = s.dfLook := rfl
@[simp] theorem setHost_dfStart : (s.setHost v).dfStart = s.dfStart := rfl
@[simp] theorem setHost_dout : (s.setHost v).dout = s.dout := rfl
@[simp] theorem setHost_inReset : (s.setHost v).inReset = s.inReset := rfl
@[simp] theorem setHost_host : (s.setHost v).host = v := rfl
@[simp] theorem setHost_readLog : (s.setHost v).readLog = s.readLog := rfl
@[simp] theorem setHost_draw : (s.setHost v).draw = s.draw := rfl
end

section
variable (v : List Byte)
@[simp] theorem emit_cfg : (s.emit v).cfg = s.cfg := rfl
@[simp] theorem emit_err : (s.emit v).err = s.err := rfl
@[simp] theorem emit_emits : (s.emit v).emits = s.emits := rfl
@[simp] theorem emit_result : (s.emit v).result = s.result := rfl
@[simp] theorem emit_ibuf : (s.emit v).ibuf = s.ibuf := rfl
@[simp] theorem emit_obuf : (s.emit v).obuf = s.obuf := rfl
@[simp] theorem emit_acc : (s.emit v).acc = s.acc := rfl
@[simp] theorem emit_ring : (s.emit v).ring = s.ring := rfl
@[simp] theorem emit_sdLast : (s.emit v).sdLast = s.sdLast := rfl
@[simp] theorem emit_sdPos : (s.emit v).sdPos = s.sdPos := rfl
@[simp] theorem emit_sdReady : (s.emit v).sdReady = s.sdReady := rfl
@[simp] theorem emit_dfState : (s.emit v).dfState = s.dfState := rfl
@[simp] theorem emit_dfPush : (s.emit v).dfPush = s.dfPush := rfl
@[simp] theorem emit_dfLook : (s.emit v).dfLook = s.dfLook := rfl
@[simp] theorem emit_dfStart : (s.emit v).dfStart = s.dfStart := rfl
@[simp] theorem emit_dout : (s.emit v).dout = s.dout ++ [v] := rfl
@[simp] theorem emit_inReset : (s.emit v).inReset = s.inReset := rfl
@[simp] theorem emit_host : (s.emit v).host = s.host := rfl
@[simp] theorem emit_readLog : (s.emit v).readLog = s.readLog := rfl
@[simp] theorem emit_draw : (s.emit v).draw = s.draw := rfl
end

section
variable (v : Word)
@[simp] theorem logRead_cfg : (s.logRead v).cfg = s.cfg := rfl
@[simp] theorem logRead_err : (s.logRead v).err = s.err := rfl
@[simp] theorem logRead_emits : (s.logRead v).emits = s.emits := rfl
@[simp] theorem logRead_result : (s.logRead v).result = s.result := rfl
@[simp] theorem logRead_ibuf : (s.logRead v).ibuf = s.ibuf := rfl
@[simp] theorem logRead_obuf : (s.logRead v).obuf = s.obuf := rfl
@[simp] theorem logRead_acc : (s.logRead v).acc = s.acc := rfl
@[simp] theorem logRead_ring : (s.logRead v).ring = s.ring := rfl
@[simp] theorem logRead_sdLast : (s.logRead v).sdLast = s.sdLast := rfl
@[simp] theorem logRead_sdPos : (s.logRead v).sdPos = s.sdPos := rfl
@[simp] theorem logRead_sdReady : (s.logRead v).sdReady = s.sdReady := rfl
@[simp] theorem logRead_dfState : (s.logRead v).dfState = s.dfState := rfl
@[simp] theorem logRead_dfPush : (s.logRead v).dfPush = s.dfPush := rfl
@[simp] theorem logRead_dfLook : (s.logRead v).dfLook = s.dfLook := rfl
@[simp] theorem logRead_dfStart : (s.logRead v).dfStart = s.dfStart := rfl
@[simp] theorem logRead_dout : (s.logRead v).dout = s.dout := rfl
@[simp] theorem logRead_inReset : (s.logRead v).inReset = s.inReset := rfl
@[simp] theorem logRead_host : (s.logRead v).host = s.host := rfl
@[simp] theorem logRead_readLog : (s.logRead v).readLog = s.readLog ++ [v] := rfl
@[simp] theorem logRead_draw : (s.logRead v).draw = s.draw := rfl
end

/-! The compound updates, as one record update each: their fields follow by simp. -/

theorem succeed_eq : s.succeed = { s with err := 0 } := rfl

theorem fail_eq (code : BitVec 2) : s.fail code = { s with err := code } := rfl

theorem failCapacity_eq : s.failCapacity = { s with result := 0, err := 1 } := rfl

theorem deliver_eq (out : List Byte) :
    s.deliver out = { s with obuf := s.obuf.setRange 0 out, result := BitVec.ofNat 8 out.length } := rfl

theorem takeReset_eq : s.takeReset =
    { resetWith s.cfg with
      host := s.host, readLog := s.readLog, draw := { s.draw with resets := s.draw.resets + 1 } } := rfl

@[simp] theorem takeReset_draw_inst : s.takeReset.draw.inst = s.draw.inst := rfl

end Sys2Proof.Machine.State
end

