-- ==== Sys2Proof/Laws/Operands.lean ====
section
/-! SUPPORT. The laws of the operand forms: buffer ranges, the delivery of an encoder's output, and the de-framer's
positions modulo 2N (spec/43_deframer.md R150, R151). -/

namespace Sys2Proof.Machine

@[simp] theorem length_ibufWrap (s : State) (off len : Nat) : (s.ibufWrap off len).length = len := by
  simp [State.ibufWrap]

@[simp] theorem length_ibufPrefix (s : State) (len : Nat) : (s.ibufPrefix len).length = len := by
  simp [State.ibufPrefix]

@[simp] theorem length_candBytes (s : State) (a n : Nat) : (s.candBytes a n).length = n := by
  simp [State.candBytes]

/-- What OBUF reads after an encoder delivers `out`: `out` in front, the rest as before. -/
theorem obufAt_deliver (s : State) (out : List Byte) (i : Nat) :
    (s.deliver out).obufAt i = if h : i < out.length then out[i] else s.obufAt i := by
  have h := Memory.read_setRange s.obuf s.draw .obuf 0 out i
  simp only [Nat.zero_le, true_and, Nat.zero_add, Nat.sub_zero] at h
  exact h

/-! ## Well-formed parameters -/

theorem four_le_N {c : Params} (h : c.wf = true) : 4 ≤ c.N := by
  simp only [Params.wf, Bool.and_eq_true, decide_eq_true_eq] at h
  omega

theorem N_le_127 {c : Params} (h : c.wf = true) : c.N ≤ 127 := by
  simp only [Params.wf, Bool.and_eq_true, decide_eq_true_eq] at h
  omega

theorem END_ne_ESC {c : Params} (h : c.wf = true) : c.END ≠ c.ESC := by
  simp only [Params.wf, Bool.and_eq_true, bne_iff_ne] at h
  exact h.1.1.1.1.1.2

theorem END_ne_ESC_END {c : Params} (h : c.wf = true) : c.END ≠ c.ESC_END := by
  simp only [Params.wf, Bool.and_eq_true, bne_iff_ne] at h
  exact h.1.1.1.1.2

theorem END_ne_ESC_ESC {c : Params} (h : c.wf = true) : c.END ≠ c.ESC_ESC := by
  simp only [Params.wf, Bool.and_eq_true, bne_iff_ne] at h
  exact h.1.1.1.2

theorem ESC_ne_ESC_END {c : Params} (h : c.wf = true) : c.ESC ≠ c.ESC_END := by
  simp only [Params.wf, Bool.and_eq_true, bne_iff_ne] at h
  exact h.1.1.2

theorem ESC_ne_ESC_ESC {c : Params} (h : c.wf = true) : c.ESC ≠ c.ESC_ESC := by
  simp only [Params.wf, Bool.and_eq_true, bne_iff_ne] at h
  exact h.1.2

theorem ESC_END_ne_ESC_ESC {c : Params} (h : c.wf = true) : c.ESC_END ≠ c.ESC_ESC := by
  simp only [Params.wf, Bool.and_eq_true, bne_iff_ne] at h
  exact h.2

/-! ## Positions -/

theorem pmod_pos {c : Params} (h : c.wf = true) : 0 < Params.pmod c := by
  have := four_le_N h
  unfold Params.pmod
  omega

theorem pmod_le {c : Params} (h : c.wf = true) : Params.pmod c ≤ 254 := by
  have := N_le_127 h
  unfold Params.pmod
  omega

/-- A position steps modulo 2N, with no wrap at 8 bits. -/
theorem toNat_nextPos {c : Params} (h : c.wf = true) (p : Byte) :
    (nextPos c p).toNat = (p.toNat + 1) % Params.pmod c := by
  have h1 := pmod_pos h
  have h2 := pmod_le h
  have h3 := Nat.mod_lt (p.toNat + 1) h1
  unfold nextPos
  rw [BitVec.toNat_ofNat, Nat.mod_eq_of_lt (by omega)]

theorem nextPos_lt {c : Params} (h : c.wf = true) (p : Byte) : (nextPos c p).toNat < Params.pmod c := by
  rw [toNat_nextPos h]
  exact Nat.mod_lt _ (pmod_pos h)

theorem dist_lt {c : Params} (h : c.wf = true) (a b : Byte) : dist c a b < Params.pmod c :=
  Nat.mod_lt _ (pmod_pos h)

/-- For positions in range the distance is the one step up or the one wrapped. -/
theorem dist_eq {c : Params} (a b : Byte) (ha : a.toNat < Params.pmod c) (hb : b.toNat < Params.pmod c) :
    dist c a b = if a.toNat ≤ b.toNat then b.toNat - a.toNat else b.toNat + Params.pmod c - a.toNat := by
  unfold dist
  rw [Nat.mod_eq_of_lt ha]
  split
  · have : b.toNat + (Params.pmod c - a.toNat) = (b.toNat - a.toNat) + Params.pmod c := by omega
    rw [this, Nat.add_mod_right, Nat.mod_eq_of_lt (by omega)]
  · rw [Nat.mod_eq_of_lt (by omega)]
    omega

/-- The target of a distance, as a number: `b = (a + d(a, b)) mod 2N`. -/
theorem add_dist {c : Params} (h : c.wf = true) (a b : Byte) (hb : b.toNat < Params.pmod c) :
    (a.toNat + dist c a b) % Params.pmod c = b.toNat := by
  have hp := pmod_pos h
  unfold dist
  rw [Nat.add_mod_mod, ← Nat.add_assoc, Nat.add_comm a.toNat, Nat.add_assoc]
  have h1 : a.toNat + (Params.pmod c - a.toNat % Params.pmod c) =
      Params.pmod c * (a.toNat / Params.pmod c) + Params.pmod c := by
    have := Nat.div_add_mod a.toNat (Params.pmod c)
    have := Nat.mod_lt a.toNat hp
    omega
  rw [h1, ← Nat.add_assoc, Nat.add_mod_right, Nat.add_mul_mod_self_left, Nat.mod_eq_of_lt hb]

/-- No distance: the same position. -/
theorem dist_eq_zero {c : Params} (h : c.wf = true) {a b : Byte} (ha : a.toNat < Params.pmod c)
    (hb : b.toNat < Params.pmod c) (hd : dist c a b = 0) : a = b := by
  have := add_dist h a b hb
  rw [hd, Nat.add_zero, Nat.mod_eq_of_lt ha] at this
  exact BitVec.eq_of_toNat_eq this

/-- One step from `a` shortens the distance to `b` by one. -/
theorem dist_nextPos_left {c : Params} (h : c.wf = true) (a b : Byte) (ha : a.toNat < Params.pmod c)
    (hb : b.toNat < Params.pmod c) (hd : dist c a b ≠ 0) : dist c (nextPos c a) b = dist c a b - 1 := by
  have h1 := nextPos_lt h a
  have h2 := toNat_nextPos h a
  rw [dist_eq a b ha hb] at hd ⊢
  rw [dist_eq _ b h1 hb, h2]
  rcases Nat.lt_or_ge (a.toNat + 1) (Params.pmod c) with h3 | h3
  · rw [Nat.mod_eq_of_lt h3]
    split at hd <;> split <;> omega
  · have h4 : a.toNat + 1 = Params.pmod c := by omega
    rw [h4, Nat.mod_self]
    split at hd <;> split <;> omega

/-- One step of `b` lengthens the distance from `a` by one, short of a full turn. -/
theorem dist_nextPos_right {c : Params} (h : c.wf = true) (a b : Byte) (ha : a.toNat < Params.pmod c)
    (hb : b.toNat < Params.pmod c) (hd : dist c a b + 1 < Params.pmod c) :
    dist c a (nextPos c b) = dist c a b + 1 := by
  have h1 := nextPos_lt h b
  have h2 := toNat_nextPos h b
  rw [dist_eq a b ha hb] at hd ⊢
  rw [dist_eq a _ ha h1, h2]
  rcases Nat.lt_or_ge (b.toNat + 1) (Params.pmod c) with h3 | h3
  · rw [Nat.mod_eq_of_lt h3]
    split at hd <;> split <;> omega
  · have h4 : b.toNat + 1 = Params.pmod c := by omega
    rw [h4, Nat.mod_self]
    split at hd <;> split <;> omega

/-- Stepping modulo 2N is stepping modulo N, since N divides 2N: the ring index of the next position. -/
theorem nextPos_mod_N {c : Params} (h : c.wf = true) (p : Byte) :
    (nextPos c p).toNat % c.N = (p.toNat + 1) % c.N := by
  rw [toNat_nextPos h]
  exact Nat.mod_mod_of_dvd _ ⟨2, by unfold Params.pmod; omega⟩

end Sys2Proof.Machine
end

