-- ==== Sys2Proof/Laws/Deframer.lean ====
section
/-! SUPPORT. What the de-framer's operations can do (spec/43_deframer.md R150 to R160): the cases of each state's step,
and the frame of the whole loop. -/

namespace Sys2Proof.Machine

/-- Everything the intake does (R151). -/
theorem intake_eq (s : State) (b : Byte) : s.intake b =
    { s with ring := s.ring.set (s.dfPush.toNat % s.cfg.N) b, dfPush := nextPos s.cfg s.dfPush } := rfl

theorem candidate_eq (s : State) (p : Byte) : s.candidate p =
    { s with dfStart := p, dfLook := nextPos s.cfg p, dfState := .headerWait } := rfl

theorem resume_eq (s : State) : s.resume =
    { s with dfLook := nextPos s.cfg s.dfStart, dfState := .searching } := rfl

/-- After the intake the ring reads the new byte at its index and the old bytes elsewhere. -/
theorem ringAt_intake (s : State) (b : Byte) (p : Nat) :
    (s.intake b).ringAt p = if p % s.cfg.N = s.dfPush.toNat % s.cfg.N then b else s.ringAt p :=
  Memory.read_set s.ring s.draw .ring _ _ b

/-- The cases of BODY_WAIT (R155 to R158). -/
theorem dfrBody_cases (s : State) (n : Nat) :
    (s.avail < s.declared ∧ dfrBody s n = ⟨s, n, false⟩) ∨
    (s.declared ≤ s.avail ∧ s.sizeOk = false ∧ dfrBody s n = ⟨s.setDfState .searching, n, false⟩) ∨
    (s.declared ≤ s.avail ∧ s.sizeOk = true ∧ s.trailerOk = true ∧
      dfrBody s n = ⟨(s.emit s.payload).resume, n + 1, true⟩) ∨
    (s.declared ≤ s.avail ∧ s.sizeOk = true ∧ s.trailerOk = false ∧ dfrBody s n = ⟨s.resume, n, true⟩) := by
  unfold dfrBody
  by_cases h1 : s.avail < s.declared
  · simp [h1]
  · cases h2 : s.sizeOk
    · simp only [h1]
      simp
      omega
    · cases h3 : s.trailerOk
      · simp only [h1]
        simp
        omega
      · simp only [h1]
        simp
        omega

/-- The cases of HEADER_WAIT (R154). -/
theorem dfrHeader_cases (s : State) (n : Nat) :
    (s.avail < 3 ∧ dfrHeader s n = ⟨s, n, false⟩) ∨
    (3 ≤ s.avail ∧ s.headerOk = true ∧ dfrHeader s n = dfrBody (s.setDfState .bodyWait) n) ∨
    (3 ≤ s.avail ∧ s.headerOk = false ∧ dfrHeader s n = ⟨s.setDfState .searching, n, true⟩) := by
  unfold dfrHeader
  by_cases h1 : s.avail < 3
  · simp [h1]
  · cases h2 : s.headerOk
    · simp only [h1]
      simp
      omega
    · simp only [h1]
      simp
      omega

/-- The cases of SEARCHING (R153). -/
theorem dfrSearch_cases (s : State) (n : Nat) :
    (∃ p, s.scan (dist s.cfg s.dfLook s.dfPush) s.dfLook = some p ∧ dfrSearch s n = dfrHeader (s.candidate p) n) ∨
    (s.scan (dist s.cfg s.dfLook s.dfPush) s.dfLook = none ∧ dfrSearch s n = ⟨s.setDfLook s.dfPush, n, false⟩) := by
  unfold dfrSearch
  split
  · rename_i p h
    exact .inl ⟨p, h, rfl⟩
  · rename_i h
    exact .inr ⟨h, rfl⟩

/-- `t` differs from `s` in the de-framer's search variables and in datagrams appended to DOUT, none longer than a payload
can be; `k` of them were appended. -/
def DfrFrame (s t : State) (k : Nat) : Prop :=
  ∃ new : List (List Byte), new.length = k ∧ (∀ d ∈ new, d.length + 4 ≤ s.cfg.N) ∧
    t = { s with dout := s.dout ++ new, dfState := t.dfState, dfLook := t.dfLook, dfStart := t.dfStart }

theorem DfrFrame.refl (s : State) : DfrFrame s s 0 :=
  ⟨[], rfl, by simp, by cases s; simp⟩

theorem DfrFrame.trans {s t u : State} {j k : Nat} (h1 : DfrFrame s t j) (h2 : DfrFrame t u k) :
    DfrFrame s u (j + k) := by
  obtain ⟨n1, l1, b1, e1⟩ := h1
  obtain ⟨n2, l2, b2, e2⟩ := h2
  refine ⟨n1 ++ n2, by simp [l1, l2], ?_, ?_⟩
  · intro d hd
    rcases List.mem_append.mp hd with h | h
    · exact b1 d h
    · have := b2 d h
      rw [e1] at this
      exact this
  · rw [e2, e1]
    simp [List.append_assoc]

theorem dfrBody_frame (s : State) (n : Nat) : ∃ k, (dfrBody s n).count = n + k ∧ DfrFrame s (dfrBody s n).st k := by
  rcases dfrBody_cases s n with ⟨_, h⟩ | ⟨_, _, h⟩ | ⟨_, hs, ht, h⟩ | ⟨_, _, _, h⟩ <;> rw [h]
  · exact ⟨0, rfl, DfrFrame.refl s⟩
  · exact ⟨0, rfl, [], rfl, by simp, by cases s; simp [State.setDfState]⟩
  · refine ⟨1, rfl, [s.payload], rfl, ?_, rfl⟩
    intro d hd
    simp only [List.mem_singleton] at hd
    simp only [State.sizeOk, State.trailerOk, Bool.and_eq_true, decide_eq_true_eq] at hs ht
    rw [hd, State.payload, length_candBytes]
    omega
  · exact ⟨0, rfl, [], rfl, by simp, by cases s; simp [State.resume, State.setDfState, State.setDfLook]⟩

theorem dfrHeader_frame (s : State) (n : Nat) :
    ∃ k, (dfrHeader s n).count = n + k ∧ DfrFrame s (dfrHeader s n).st k := by
  have hset : ∀ v, DfrFrame s (s.setDfState v) 0 := fun v =>
    ⟨[], rfl, by simp, by cases s; simp [State.setDfState]⟩
  rcases dfrHeader_cases s n with ⟨_, h⟩ | ⟨_, _, h⟩ | ⟨_, _, h⟩ <;> rw [h]
  · exact ⟨0, rfl, DfrFrame.refl s⟩
  · obtain ⟨k, hc, hf⟩ := dfrBody_frame (s.setDfState .bodyWait) n
    exact ⟨k, hc, by simpa using (hset .bodyWait).trans hf⟩
  · exact ⟨0, rfl, hset .searching⟩

theorem dfrSearch_frame (s : State) (n : Nat) :
    ∃ k, (dfrSearch s n).count = n + k ∧ DfrFrame s (dfrSearch s n).st k := by
  rcases dfrSearch_cases s n with ⟨p, _, h⟩ | ⟨_, h⟩ <;> rw [h]
  · obtain ⟨k, hc, hf⟩ := dfrHeader_frame (s.candidate p) n
    have hset : DfrFrame s (s.candidate p) 0 := ⟨[], rfl, by simp, by rw [candidate_eq]; cases s; simp⟩
    exact ⟨k, hc, by simpa using hset.trans hf⟩
  · exact ⟨0, rfl, [], rfl, by simp, by cases s; simp [State.setDfLook]⟩

/-- The frame of one pass of the loop. -/
theorem dfrPass_frame (s : State) (n : Nat) : ∃ k, (dfrPass s n).count = n + k ∧ DfrFrame s (dfrPass s n).st k := by
  unfold dfrPass
  split
  · exact dfrSearch_frame s n
  · exact dfrHeader_frame s n
  · exact dfrBody_frame s n

/-- The frame of the loop: it moves the search variables, appends datagrams to DOUT and counts them. -/
theorem dfrLoop_frame (fuel : Nat) (s : State) (n : Nat) :
    ∃ k, (dfrLoop fuel s n).count = n + k ∧ DfrFrame s (dfrLoop fuel s n).st k := by
  induction fuel generalizing s n with
  | zero => exact ⟨0, rfl, DfrFrame.refl s⟩
  | succ f ih =>
    obtain ⟨k, hc, hf⟩ := dfrPass_frame s n
    simp only [dfrLoop]
    split
    · obtain ⟨k', hc', hf'⟩ := ih (dfrPass s n).st (dfrPass s n).count
      exact ⟨k + k', by rw [hc', hc, Nat.add_assoc], hf.trans hf'⟩
    · exact ⟨k, hc, hf⟩

end Sys2Proof.Machine
end

