-- ==== Sys2Proof/Laws/Instances.lean ====
section
/-! SUPPORT. The laws of systems of several instances (spec/20_memory.md R63, spec/60_exceptions.md R200): what a system
holds right after reset, and everything a step of one instance can do. -/

namespace Sys2Proof.Machine

/-- An instance right after reset is the block right after reset, but for whose draw its unwritten bytes are. -/
theorem resetInstance_eq (k : Nat) (c : Params) :
    State.resetInstance k c = { State.resetWith c with draw := ⟨k, 0⟩ } := rfl

@[simp] theorem length_resetSystem (cs : List Params) : (resetSystem cs).length = cs.length := by
  simp [resetSystem]

@[simp] theorem getElem?_resetSystem (cs : List Params) (k : Nat) :
    (resetSystem cs)[k]? = cs[k]?.map (State.resetInstance k) := by
  simp [resetSystem]

/-- Everything a step of instance `k` can do when the system answers a next state. -/
theorem stepInstance_next_cases {k : Nat} {sys sys' : List State} (h : stepInstance k sys = .next sys') :
    (sys[k]? = none ∧ sys' = sys) ∨ ∃ s t, sys[k]? = some s ∧ step s = .next t ∧ sys' = sys.set k t := by
  unfold stepInstance at h
  split at h
  · rename_i hk
    injection h with h
    exact .inl ⟨hk, h.symm⟩
  · rename_i s hk
    split at h
    · rename_i t ht
      injection h with h
      exact .inr ⟨s, t, hk, ht, h.symm⟩
    · cases h
    · cases h

end Sys2Proof.Machine
end

