-- ==== Sys2Proof/Laws/PerInstr.lean ====
section
/-! SUPPORT. Facts about every command as syntax, one lemma per constructor. Family `CanonicalWord`: the word an assembler
writes for a command has 0 in the reserved field and in every ignored field (spec/30_encoding.md R80, R86). -/

namespace Sys2Proof.Laws

/-- The encoded word of `i` has a zero reserved field, and no bit outside the fields `i` reads. -/
def CanonicalWord.Statement (i : Instr) : Prop :=
  rsvField (encode i) = 0 ∧ encode i &&& operandMask i = encode i

theorem CanonicalWord.nop : CanonicalWord.Statement .nop := by
  refine ⟨?_, ?_⟩
  · rw [encode, rsvField_packWord]
    decide
  · simp only [encode, operandMask_packWord, packWord_and, packWord_inj]
    decide

theorem CanonicalWord.chk (seed len off : Byte) : CanonicalWord.Statement (.chk seed len off) := by
  refine ⟨?_, ?_⟩
  · rw [encode, rsvField_packWord]
    decide
  · simp only [encode, operandMask_packWord, packWord_and, packWord_inj]
    exact ⟨by decide, BitVec.and_allOnes, BitVec.and_allOnes, BitVec.and_allOnes⟩

theorem CanonicalWord.senc (len cap : Byte) : CanonicalWord.Statement (.senc len cap) := by
  refine ⟨?_, ?_⟩
  · rw [encode, rsvField_packWord]
    decide
  · simp only [encode, operandMask_packWord, packWord_and, packWord_inj]
    exact ⟨by decide, by decide, BitVec.and_allOnes, BitVec.and_allOnes⟩

theorem CanonicalWord.sdec (byte : Byte) : CanonicalWord.Statement (.sdec byte) := by
  refine ⟨?_, ?_⟩
  · rw [encode, rsvField_packWord]
    decide
  · simp only [encode, operandMask_packWord, packWord_and, packWord_inj]
    exact ⟨by decide, BitVec.and_allOnes, by decide, by decide⟩

theorem CanonicalWord.fenc (len cap : Byte) : CanonicalWord.Statement (.fenc len cap) := by
  refine ⟨?_, ?_⟩
  · rw [encode, rsvField_packWord]
    decide
  · simp only [encode, operandMask_packWord, packWord_and, packWord_inj]
    exact ⟨by decide, by decide, BitVec.and_allOnes, BitVec.and_allOnes⟩

theorem CanonicalWord.dfr (byte : Byte) : CanonicalWord.Statement (.dfr byte) := by
  refine ⟨?_, ?_⟩
  · rw [encode, rsvField_packWord]
    decide
  · simp only [encode, operandMask_packWord, packWord_and, packWord_inj]
    exact ⟨by decide, BitVec.and_allOnes, by decide, by decide⟩

end Sys2Proof.Laws
end

