-- ==== Sys2Proof/Laws/Step.lean ====
section
/-! SUPPORT. What one step can do: the cases of the host port (spec/20_memory.md R50, R53, spec/44_system.md R183). -/

namespace Sys2Proof.Machine

/-- The cases of a host write: a command, a byte of IBUF, or nothing (R50, R53). -/
theorem hostWrite_cases (n : Nat) (a : Addr) (v : Word) (s : State) :
    (n = 4 ∧ a = cmdAddr ∧ hostWrite n a v s = runWord v s) ∨
    (n = 1 ∧ a.toNat < 0x100 ∧ hostWrite n a v s = .next (s.setIbuf (s.ibuf.set a.toNat (v.setWidth 8)))) ∨
    (¬(n = 4 ∧ a = cmdAddr) ∧ ¬(n = 1 ∧ a.toNat < 0x100) ∧ hostWrite n a v s = .next s) := by
  unfold hostWrite
  by_cases h1 : n = 4 ∧ a = cmdAddr
  · exact .inl ⟨h1.1, h1.2, by simp [h1]⟩
  · by_cases h2 : n = 1 ∧ a.toNat < 0x100
    · exact .inr (.inl ⟨h2.1, h2.2, by simp [h2]⟩)
    · exact .inr (.inr ⟨h1, h2, by simp [h1, h2]⟩)

/-- Everything one step can do when it answers a next state. -/
theorem step_next_cases {s t : State} (h : step s = .next t) :
    (s.host = [] ∧ t = s) ∨
    (∃ rest, s.host = .assertReset :: rest ∧ t = (s.setHost rest).setInReset true) ∨
    (∃ rest, s.host = .releaseReset :: rest ∧ s.inReset = true ∧ t = (s.setHost rest).takeReset) ∨
    (∃ rest, s.host = .releaseReset :: rest ∧ s.inReset = false ∧ t = s.setHost rest) ∨
    (∃ n a rest, s.host = .read n a :: rest ∧ s.inReset = false ∧
      t = (s.setHost rest).logRead ((s.setHost rest).hostRead n a)) ∨
    (∃ n a v rest, s.host = .write n a v :: rest ∧ s.inReset = false ∧
      hostWrite n a ((s.setHost rest).hostValue v) (s.setHost rest) = .next t) := by
  unfold step hostStep at h
  split at h
  · rename_i hh
    injection h with h
    exact .inl ⟨hh, h.symm⟩
  · rename_i e rest hh
    cases e with
    | assertReset =>
      injection h with h
      exact .inr (.inl ⟨rest, hh, h.symm⟩)
    | releaseReset =>
      simp only [perform, State.setHost_inReset] at h
      cases hr : s.inReset
      · rw [hr, cond_false] at h
        injection h with h
        exact .inr (.inr (.inr (.inl ⟨rest, hh, rfl, h.symm⟩)))
      · rw [hr, cond_true] at h
        injection h with h
        exact .inr (.inr (.inl ⟨rest, hh, rfl, h.symm⟩))
    | read n a =>
      simp only [perform, State.setHost_inReset] at h
      cases hr : s.inReset
      · rw [hr, cond_false] at h
        injection h with h
        exact .inr (.inr (.inr (.inr (.inl ⟨n, a, rest, hh, rfl, h.symm⟩))))
      · rw [hr, cond_true] at h
        cases h
    | write n a v =>
      simp only [perform, State.setHost_inReset] at h
      cases hr : s.inReset
      · rw [hr, cond_false] at h
        exact .inr (.inr (.inr (.inr (.inr ⟨n, a, v, rest, hh, rfl, h⟩))))
      · rw [hr, cond_true] at h
        cases h

end Sys2Proof.Machine
end

