-- ==== Sys2Proof/Laws/Stuffing.lean ====
section
/-! SUPPORT. The laws of the stuffing function and of the decoder's accumulation (spec/41_stuffing.md). -/

namespace Sys2Proof.Machine

/-- A data byte takes two wire bytes when it is END or ESC, else one (R75). -/
theorem length_escByte (c : Params) (x : Byte) :
    (escByte c x).length = if x = c.END ∨ x = c.ESC then 2 else 1 := by
  unfold escByte
  by_cases h1 : x = c.END
  · simp [h1]
  · by_cases h2 : x = c.ESC
    · rw [if_neg h1, if_pos h2, if_pos (.inr h2)]
      rfl
    · rw [if_neg h1, if_neg h2, if_neg (by simp [h1, h2])]
      rfl

theorem stuff_eq (c : Params) (b : List Byte) : stuff c b = c.END :: (b.flatMap (escByte c) ++ [c.END]) := rfl

/-- Everything `Append(v)` does (R117). -/
theorem append_eq (s : State) (v : Byte) : s.append v =
    { s with
      acc := s.acc.set (if s.sdPos.toNat = s.cfg.N then 0 else s.sdPos : Byte).toNat v
      sdPos := (if s.sdPos.toNat = s.cfg.N then 0 else s.sdPos) + 1 } := rfl

/-- Everything the receipt of END does (R115). -/
theorem sdecEnd_eq (s : State) : s.sdecEnd =
    { s with
      sdReady := if s.sdPos = 0 then s.sdReady else s.sdPos
      sdPos := 0
      sdLast := s.cfg.END } := by
  by_cases h : s.sdPos = 0
  · simp only [State.sdecEnd, h, if_true]
    cases s
    simp_all [State.setSdLast]
  · simp only [State.sdecEnd, h, if_false]
    rfl

/-- The byte the receipt of a data byte stores, if any (R116). -/
def storedByte (c : Params) (last b : Byte) : Option Byte :=
  if last = c.ESC then if b = c.ESC_END then some c.END else if b = c.ESC_ESC then some c.ESC else none
  else if b = c.ESC then none
  else some b

/-- Everything the receipt of a data byte does (R116): at most one `Append`, and the lookback. -/
theorem sdecData_eq (s : State) (b : Byte) : s.sdecData b =
    { (match storedByte s.cfg s.sdLast b with
        | some v => s.append v
        | none => s) with sdLast := b } := by
  unfold State.sdecData storedByte
  split
  · split
    · rfl
    · split <;> rfl
  · split <;> rfl

end Sys2Proof.Machine
end

