-- ==== Sys2Proof/Tests/Slice0.lean ====
section
/-! SUPPORT. Tests of the model. Expected values come from the spec: spec/95_test_vectors.md (V…, L…) and the encodings of
spec/30_encoding.md R85. After them, for every statement of Certificates/Slice0/Obligations.lean that has hypotheses, a
concrete state and operands that meet them, at the boundary values of each clause. -/

namespace Sys2Proof.Tests

open Sys2Proof.Machine

/-! ## Helpers -/

/-- Reset, with `bs` written from IBUF[0] on. -/
def withIbuf (bs : List Byte) : State := { State.reset with ibuf := Memory.setRange [] 0 bs }

/-- A field of the next state. -/
def got {α : Type} (o : Out) (f : State → α) : Option α :=
  match o with
  | .next s => some (f s)
  | .fault _ => none
  | .refused _ => none

/-- The state after pushing `bs` into the de-framer. -/
def pushed (bs : List Byte) (s : State) : State :=
  match runExec (bs.map .dfr) s with
  | .next t => t
  | .fault _ => s
  | .refused _ => s

/-- The command word `w` as the first command after `s`. -/
def first (s : State) (w : Nat) : Out := step (s.withFetchWord 32 w)

/-- The smallest block: `N = 4`, the other parameters at their defaults. -/
def small : State := State.resetWith { Params.default with N := 4 }

/-- The largest block: `N = 127`. -/
def large : State := State.resetWith { Params.default with N := 127 }

/-! ## Well-formedness: each check refuses a term (R8, R9, R86) -/

theorem test_wf_default : Params.default.wf = true := by decide
theorem test_wf_N_below : ({ Params.default with N := 3 } : Params).wf = false := by decide
theorem test_wf_N_above : ({ Params.default with N := 128 } : Params).wf = false := by decide
theorem test_wf_END_ESC : ({ Params.default with ESC := 0xC0 } : Params).wf = false := by decide
theorem test_wf_END_ESC_END : ({ Params.default with ESC_END := 0xC0 } : Params).wf = false := by decide
theorem test_wf_END_ESC_ESC : ({ Params.default with ESC_ESC := 0xC0 } : Params).wf = false := by decide
theorem test_wf_ESC_ESC_END : ({ Params.default with ESC_END := 0xDB } : Params).wf = false := by decide
theorem test_wf_ESC_ESC_ESC : ({ Params.default with ESC_ESC := 0xDB } : Params).wf = false := by decide
theorem test_wf_ESC_END_ESC_ESC : ({ Params.default with ESC_ESC := 0xDC } : Params).wf = false := by decide

theorem test_wf_line_address : (AsmLine.wr8 4096 0).wf = false ∧ (AsmLine.rd8 4096).wf = false ∧
    (AsmLine.wr32 4096 0).wf = false ∧ (AsmLine.rd32 4096).wf = false ∧ (AsmLine.load 4096 []).wf = false := by decide
theorem test_wf_line_value : (AsmLine.wr8 0 256).wf = false ∧ (AsmLine.wr32 0x300 4294967296).wf = false ∧
    (AsmLine.load 0 [256]).wf = false ∧ (AsmLine.load 4095 [1, 2]).wf = false := by decide
theorem test_wf_line_operand : (AsmLine.chk 256 0 0).wf = false ∧ (AsmLine.chk 0 256 0).wf = false ∧
    (AsmLine.chk 0 0 256).wf = false ∧ (AsmLine.senc 256 0).wf = false ∧ (AsmLine.senc 0 256).wf = false ∧
    (AsmLine.sdec 256).wf = false ∧ (AsmLine.fenc 256 0).wf = false ∧ (AsmLine.fenc 0 256).wf = false ∧
    (AsmLine.dfr 256).wf = false := by decide
theorem test_wf_line_pseudo : (AsmLine.chk0 256 0).wf = false ∧ (AsmLine.chk0 0 256).wf = false ∧
    (AsmLine.fencm 256).wf = false ∧ (AsmLine.sencm 256).wf = false ∧ (AsmLine.dfrS [0, 256]).wf = false ∧
    (AsmLine.sdecS [256]).wf = false ∧ (AsmLine.copyoi 256).wf = false := by decide

/-! ## Decoding: each row's word, written out from its pattern in R85 -/

theorem test_decode_nop : decode 0x00000000 = .ok .nop := by decide
theorem test_decode_chk : decode 0x10520600 = .ok (.chk 0x52 0x06 0x00) := by decide
theorem test_decode_senc : decode 0x2000040A = .ok (.senc 4 10) := by decide
theorem test_decode_sdec : decode 0x30DB0000 = .ok (.sdec 0xDB) := by decide
theorem test_decode_fenc : decode 0x40000307 = .ok (.fenc 3 7) := by decide
theorem test_decode_dfr : decode 0x50550000 = .ok (.dfr 0x55) := by decide
theorem test_decode_illegal : decode 0x01000000 = .error .reservedField ∧ decode 0x11000200 = .error .reservedField ∧
    decode 0x60000000 = .error .reservedOpcode ∧ decode 0xF0FFFFFF = .error .reservedOpcode := by decide
theorem test_table_word : decodeTableWord 32 0x40000307 = some (.fenc 3 7) ∧ decodeTableWord 32 0x60000000 = none := by
  decide

/-! ## One step per command, from the vectors -/

/-- V6.2 with V6.1: NOP clears ERR. -/
theorem test_nop : got (first { State.reset with err := 1 } 0x00000000) State.statusReg = some 0 := by decide
/-- V6.3: the illegal word. -/
theorem test_illegal : got (first State.reset 0x60000000) State.statusReg = some 2 := by decide
/-- V1.11. -/
theorem test_chk_tcs : got (first (withIbuf [0x55, 0x07, 0x52, 0x01, 0x02, 0x03]) 0x10520600) (·.result) = some 0x42 := by
  decide
/-- V1.10: the range wraps in IBUF. -/
theorem test_chk_wrap : got (first { State.reset with ibuf := [(0, 0x30), (0xFE, 0x10), (0xFF, 0x20)] } 0x100003FE)
    (·.result) = some 0x03 := by decide
/-- V2.3. -/
theorem test_senc : got (first (withIbuf [0x01, 0xC0, 0xDB, 0x02]) 0x2000040A) (fun s => (s.result, s.obuf.map (·.2))) =
    some (8, [0xC0, 0x01, 0xDB, 0xDC, 0xDB, 0xDD, 0x02, 0xC0]) := by decide
/-- V2.4. -/
theorem test_senc_capacity : got (first (withIbuf [0x01, 0xC0, 0xDB, 0x02]) 0x20000409)
    (fun s => (s.err, s.result, s.obuf)) = some (1, 0, []) := by decide
/-- V3.5, byte 4: DC after a pending escape stores C0. -/
theorem test_sdec_escape : got (first { State.reset with sdLast := 0xDB } 0x30DC0000)
    (fun s => (s.acc, s.sdPos, s.sdLast)) = some ([(0, 0xC0)], 1, 0xDC) := by decide
/-- V3.12 and V3.10: an accumulation of N bytes restarts at index 0. -/
theorem test_sdec_overflow : got (first { State.reset with sdPos := 64, sdLast := 0x3F } 0x30400000)
    (fun s => (s.acc, s.sdPos)) = some ([(0, 0x40)], 1) := by decide
/-- V4.3. -/
theorem test_fenc : got (first (withIbuf [0x01, 0x02, 0x03]) 0x40000307) (fun s => (s.result, s.obuf.map (·.2))) =
    some (7, [0x55, 0x07, 0x52, 0x01, 0x02, 0x03, 0x42]) := by decide
/-- V4.9: a frame larger than N. -/
theorem test_fenc_too_large : got (first State.reset 0x40003DFF) (fun s => (s.err, s.result)) = some (1, 0) := by decide
/-- L1.1, the last byte of the frame. -/
theorem test_dfr_emits : got (first (pushed [0x55, 0x07, 0x52, 0x01, 0x02, 0x03] State.reset) 0x50420000)
    (fun s => (s.dout, s.statusReg, s.dfrPosReg)) = some ([[0x01, 0x02, 0x03]], 0x00000100, 0x00FF0707) := by decide
/-- V5.14, the last byte: the outer frame, then the frame nested in it, in one command. -/
theorem test_dfr_nested : got (first (pushed [0x55, 0x09, 0x60, 0x55, 0x05, 0x54, 0x07, 0x5B] State.reset) 0x507A0000)
    (fun s => (s.dout, s.statusReg, s.dfrPosReg)) =
      some ([[0x55, 0x05, 0x54, 0x07, 0x5B], [0x07]], 0x00000200, 0x00FF0909) := by decide
/-- L2.6: register reads from reset, slot by slot. -/
theorem test_registers : (List.range 9).map State.reset.regRead =
    [0, 0, 0, 0, 0x0000C000, 0x00FF0000, 0x00035540, 0xDDDCDBC0, 0] := by decide

/-! ## States and operands that meet the hypotheses of the statements

Each theorem is named after its statement. -/

theorem witness_DecodeInvertsEncode : (Instr.chk 0xFF 0x00 0x80).wf = true ∧ (Instr.dfr 0xFF).wf = true := by decide
theorem witness_EncodeRestoresReadFields : decode 0x00FFFFFF = .ok .nop ∧ decode 0x20AA040A = .ok (.senc 4 10) := by decide
theorem witness_DecodeFollowsMatchAndMask :
    ((0x01000000 : Word).extractLsb' 24 4 ≠ 0 ∧ (0x0F000000 : Word).extractLsb' 24 4 ≠ 0) ∧
    6 ≤ ((0x60000000 : Word).extractLsb' 28 4).toNat ∧ 6 ≤ ((0xF0000000 : Word).extractLsb' 28 4).toNat := by decide
theorem witness_IgnoredFieldsChangeNothing :
    (decode 0x30DB0000 = .ok (.sdec 0xDB) ∧
      (0x30DB0000 : Word) &&& operandMask (.sdec 0xDB) = 0x30DBFFFF &&& operandMask (.sdec 0xDB)) ∧
    6 ≤ ((0x6FFFFFFF : Word).extractLsb' 28 4).toNat := by decide
theorem witness_IllegalWordOnlySetsErr : IllegalWord 0x51000000 ∧ IllegalWord 0x60000000 ∧ ¬IllegalWord 0x50FFFFFF := by
  simp only [IllegalWord]
  decide

/-- A host about to write `w` to CMD, then to read STATUS. -/
def withWord (w : Word) : State :=
  { State.reset with host := [.write 4 0x300 (.lit w), .read 4 0x304] }

theorem witness_StepRunsDecodedCommand_legal : (withWord 0x50550000).inReset = false ∧
    (withWord 0x50550000).host = .write 4 0x300 (.lit 0x50550000) :: [.read 4 0x304] ∧
    decode ((withWord 0x50550000).hostValue (.lit 0x50550000)) = .ok (.dfr 0x55) ∧ (Instr.dfr 0x55).wf = true := by decide
theorem witness_StepRunsDecodedCommand_illegal : (withWord 0x60000000).inReset = false ∧
    (withWord 0x60000000).host = .write 4 0x300 (.lit 0x60000000) :: [.read 4 0x304] ∧
    decode ((withWord 0x60000000).hostValue (.lit 0x60000000)) = .error .reservedOpcode := by decide
/-- A value read before, written to CMD: the other form of a host value. -/
theorem witness_StepRunsDecodedCommand_readBack :
    decode ({ withWord 0 with readLog := [0x60000000, 0x10370000] }.hostValue (.readBack 0)) = .ok (.chk 0x37 0 0) := by
  decide

/-- A host that reads while the reset input is asserted. -/
def held : State := { State.reset with inReset := true, host := [.read 4 0x304, .releaseReset] }

theorem witness_EveryCommandCompletes :
    State.reset.inReset = false ∧ step held = .refused .hostAccessDuringReset := ⟨rfl, rfl⟩
theorem witness_IdleBlockHoldsState : State.reset.host = [] := rfl

theorem witness_ChkFoldsIbufRange_empty : (0x00 : Byte) = 0 := rfl
theorem witness_ChecksumLaws : (0x01 : Byte) ≠ 0x02 := by decide

/-- The frame of L1.1 in IBUF. -/
def framed : State := withIbuf [0x55, 0x07, 0x52, 0x01, 0x02, 0x03, 0x42]

theorem witness_ChkOfPiecesIsChkOfRange : (3 : Byte).toNat + (3 : Byte).toNat < 256 ∧ (255 : Byte).toNat + (0 : Byte).toNat < 256 ∧
    ∃ t u v, exec (.chk 0x52 3 0) framed = .next t ∧ exec (.chk t.result 3 (0 + 3)) t = .next u ∧
      exec (.chk 0x52 (3 + 3) 0) framed = .next v :=
  ⟨by decide, by decide, _, _, _, rfl, rfl, rfl⟩
theorem witness_ChkOfPiecesIsChkOfRange_frame : [0x01, 0x02, 0x03].length + 4 < 256 ∧
    (∀ i, (h : i < (frame framed.cfg [0x01, 0x02, 0x03]).length) →
      framed.ibufAt (((0 : Byte).toNat + i) % 256) = (frame framed.cfg [0x01, 0x02, 0x03])[i]) ∧
    ∃ t, exec (.chk (framed.ibufAt (((0 : Byte).toNat + 2) % 256)) (BitVec.ofNat 8 (3 + 3)) 0) framed = .next t :=
  ⟨by decide, by decide, _, rfl⟩

theorem witness_SencStuffsSourceOrFails : 2 * (126 : Byte).toNat + 2 > (253 : Byte).toNat ∧
    2 * (127 : Byte).toNat + 2 > (255 : Byte).toNat ∧ 2 * (126 : Byte).toNat + 2 ≤ (254 : Byte).toNat ∧
    2 * (0 : Byte).toNat + 2 > (1 : Byte).toNat ∧ 2 * (0 : Byte).toNat + 2 ≤ (2 : Byte).toNat := by decide
theorem witness_SencLengthLaw : ∃ t, exec (.senc 4 10) (withIbuf [0x01, 0xC0, 0xDB, 0x02]) = .next t ∧ t.err = 0 :=
  ⟨_, rfl, rfl⟩
theorem witness_StuffedBodyHoldsNoEnd : Params.default.wf = true := by decide

/-- A decoder with a pending escape and a full accumulation. -/
def escaped : State := { State.reset with sdLast := 0xDB, sdPos := 64 }

theorem witness_SdecPushesOneByte : (0xC0 : Byte) = escaped.cfg.END ∧ (0xDC : Byte) ≠ escaped.cfg.END ∧
    escaped.sdLast = escaped.cfg.ESC ∧ escaped.sdPos.toNat = escaped.cfg.N ∧ (0xDC : Byte) = escaped.cfg.ESC_END ∧
    (0xDD : Byte) = escaped.cfg.ESC_ESC ∧ State.reset.sdLast ≠ State.reset.cfg.ESC ∧
    (0xDB : Byte) = State.reset.cfg.ESC ∧ (0x41 : Byte) ≠ State.reset.cfg.ESC := by decide
theorem witness_SdecReadinessIsOneShot : (∃ t, exec (.sdec 0xC0) escaped = .next t) ∧
    ((∀ b, Instr.nop ≠ .sdec b) ∧ ∃ t, exec .nop escaped = .next t) ∧
    ((∀ i, decode 0x60000000 ≠ .ok i) ∧ ∃ t, runWord 0x60000000 escaped = .next t) ∧
    ∃ t, step { escaped with host := [.read 4 0x30C] } = .next t :=
  ⟨⟨_, rfl⟩, ⟨fun _ h => (nomatch h), _, rfl⟩, ⟨fun _ h => (nomatch h), _, rfl⟩, _, rfl⟩
theorem witness_SdecDecodesStuffedMessage : small.cfg.wf = true ∧ 2 ≤ 2 ∧
    2 < (stuff small.cfg [0x41, 0xC0, 0xDB, 0x42]).length ∧ [0x41, 0xC0, 0xDB, 0x42].length ≤ small.cfg.N := by decide

theorem witness_FencBuildsFrameOrFails : State.reset.cfg.wf = true ∧ (61 : Byte).toNat + 4 > State.reset.cfg.N ∧
    (3 : Byte).toNat + 4 > (6 : Byte).toNat ∧
    ((60 : Byte).toNat + 4 ≤ State.reset.cfg.N ∧ (60 : Byte).toNat + 4 ≤ (64 : Byte).toNat) ∧
    (0 : Byte).toNat + 4 ≤ small.cfg.N ∧ (0 : Byte).toNat + 4 ≤ (4 : Byte).toNat ∧ large.cfg.wf = true ∧
    (123 : Byte).toNat + 4 ≤ large.cfg.N := by decide
theorem witness_DfrCompletesWithinItsFrame : State.reset.cfg.wf = true ∧ small.cfg.wf = true ∧ large.cfg.wf = true := by
  decide

/-- Two bytes of a header received. -/
def inHeader : State := pushed [0x55] State.reset
/-- All but two bytes of the frame of L1.1 received. -/
def inBody : State := pushed [0x55, 0x07, 0x52, 0x01, 0x02] State.reset

theorem witness_PendingCandidateOnlyWaits :
    (inHeader.ok = true ∧ inHeader.dfState = .headerWait ∧ inHeader.avail + 1 < 3) ∧
    inBody.ok = true ∧ inBody.dfState = .bodyWait ∧ inBody.avail + 1 < inBody.declared := by decide
theorem witness_ScanStopsAtFirstMagic : inBody.cfg.wf = true ∧ (127 : Byte).toNat < 2 * inBody.cfg.N ∧
    inBody.scan 1 0 = some 0 ∧ inBody.scan 4 1 = none := by decide

/-- A search that has two buffered bytes to visit, across the wrap of the positions; the second one is `b`. -/
def wrapped (b : Byte) : State := { State.reset with ring := [(0, b), (63, 0x11)], dfLook := 127, dfPush := 1 }

theorem witness_ScanStopsAtFirstMagic_search : (wrapped 0x55).dfLook.toNat < 2 * 64 ∧ (wrapped 0x55).dfPush.toNat < 2 * 64 ∧
    ((1 + 2 * 64 - 127) % (2 * 64) = 2 ∧ (0 : Byte).toNat = (127 + 1) % (2 * 64) ∧
      (wrapped 0x55).ringAt (127 + 1) = 0x55 ∧ ∀ i, i < 1 → (wrapped 0x55).ringAt (127 + i) ≠ 0x55) ∧
    (∀ j, j < 2 → (wrapped 0x22).ringAt (127 + j) ≠ 0x55) ∧
    (∀ j, j < (5 + 2 * 64 - 5) % (2 * 64) → (wrapped 0x55).ringAt (5 + j) ≠ 0x55) := by decide
theorem witness_DfrCommandRunsThePasses : State.reset.cfg.wf = true ∧ (127 : Byte).toNat < 2 * State.reset.cfg.N ∧
    State.reset.dfState = .searching ∧ inHeader.dfState = .headerWait ∧ inBody.dfState = .bodyWait ∧
    (dfrPass (pushed [0x03] inBody) 0).again = false ∧
    (dfrPass ((pushed [0x03] inBody).intake 0x42) 0).again = true := by decide

/-- A candidate at position 0 whose first bytes are `bs`. -/
def cand (bs : List Byte) : State :=
  { State.reset with ring := Memory.setRange [] 0 bs, dfPush := BitVec.ofNat 8 bs.length, dfLook := 1, dfStart := 0,
                     dfState := .headerWait }

theorem witness_HeaderWaitChecksHeader_short : (cand [0x55, 0x07]).avail < 3 := by decide
theorem witness_HeaderWaitChecksHeader_valid :
    (∀ s ∈ [cand [0x55, 0x03, 0x56], cand [0x55, 0x40, 0x17]], 3 ≤ s.avail ∧
      chk [s.candByte 0, s.candByte 1] 0 = s.candByte 2 ∧ 3 ≤ (s.candByte 1).toNat ∧ (s.candByte 1).toNat ≤ s.cfg.N) := by
  decide
theorem witness_HeaderWaitChecksHeader_invalid :
    (∀ s ∈ [cand [0x55, 0x02, 0x55], cand [0x55, 0x02, 0x58], cand [0x55, 0x41, 0x18], cand [0x55, 0x07, 0x53]], 3 ≤ s.avail ∧
      ¬(chk [s.candByte 0, s.candByte 1] 0 = s.candByte 2 ∧ 3 ≤ (s.candByte 1).toNat ∧
        (s.candByte 1).toNat ≤ s.cfg.N)) := by decide
theorem witness_BodyWaitChecksTrailer_short : (cand [0x55, 0x04, 0x53]).avail = 3 ∧
    ((cand [0x55, 0x04, 0x53]).candByte 1).toNat = 4 := by decide
theorem witness_BodyWaitChecksTrailer_bounds : (∀ s ∈ [cand [0x55, 0x02], cand (0x55 :: 0x41 :: List.replicate 63 0x00)],
    (s.candByte 1).toNat ≤ s.avail ∧ ¬(3 ≤ (s.candByte 1).toNat ∧ (s.candByte 1).toNat ≤ s.cfg.N)) := by decide
theorem witness_BodyWaitChecksTrailer_good :
    (∀ s ∈ [cand [0x55, 0x04, 0x53, 0x58], cand [0x55, 0x07, 0x52, 0x01, 0x02, 0x03, 0x42]],
      (s.candByte 1).toNat ≤ s.avail ∧ 4 ≤ (s.candByte 1).toNat ∧ (s.candByte 1).toNat ≤ s.cfg.N ∧
        chk ((List.range ((s.candByte 1).toNat - 1)).map s.candByte) (s.candByte 2) =
          s.candByte ((s.candByte 1).toNat - 1)) := by decide
theorem witness_BodyWaitChecksTrailer_bad :
    (∀ s ∈ [cand [0x55, 0x04, 0x53, 0x59], cand [0x55, 0x07, 0x52, 0x01, 0x02, 0x03, 0x43]],
      (s.candByte 1).toNat ≤ s.avail ∧ 4 ≤ (s.candByte 1).toNat ∧ (s.candByte 1).toNat ≤ s.cfg.N ∧
        chk ((List.range ((s.candByte 1).toNat - 1)).map s.candByte) (s.candByte 2) ≠
          s.candByte ((s.candByte 1).toNat - 1)) := by decide
theorem witness_DeclaredSizeThreeNeverEmits : (∀ s ∈ [cand [0x55, 0x03, 0x56], cand [0x55, 0x03, 0x00]],
    s.cfg.wf = true ∧ (s.candByte 1).toNat = 3 ∧ 3 ≤ s.avail ∧ s.dfLook = nextPos s.cfg s.dfStart) := by decide
theorem witness_DfrLoopRunsAtMostNPlusOneTimes : inBody.ok = true ∧ inBody.cfg.N + 1 ≤ 65 := by decide
theorem witness_DfrFuelNeverRunsOut : (cand [0x55, 0x03, 0x00]).cfg.wf = true ∧ (cand [0x55, 0x03, 0x00]).posOk = true ∧
    dfrFuel (cand [0x55, 0x03, 0x00]).cfg ≤ 130 := by decide
theorem witness_EmitsCountsDatagrams : ((pushed [0x03] inBody).ok = true ∧
      ∃ t, exec (.dfr 0x42) (pushed [0x03] inBody) = .next t) ∧
    ((∀ b, Instr.nop ≠ .dfr b) ∧ ∃ t, exec .nop inBody = .next t) ∧
    (∀ i, decode 0x01000000 ≠ .ok i) ∧ ∃ t, runWord 0x01000000 inBody = .next t :=
  ⟨⟨by decide, _, rfl⟩, ⟨fun _ h => (nomatch h), _, rfl⟩, fun _ h => (nomatch h), _, rfl⟩
theorem witness_DeframerEmitsEncodedPayload : (small.ok = true ∧ small.dfState = .searching ∧ ([] : List Byte).length + 4 ≤ small.cfg.N) ∧
    (State.reset.ok = true ∧ State.reset.dfState = .searching ∧ [0x01, 0x02, 0x03].length + 4 ≤ State.reset.cfg.N ∧
      State.reset.cfg.MAGIC ∉ (frame State.reset.cfg [0x01, 0x02, 0x03]).tail) ∧
    (List.replicate 60 (0x00 : Byte)).length + 4 ≤ State.reset.cfg.N := by decide
theorem witness_PendingCandidateResolves : (pushed [0x55] small).ok = true ∧ (pushed [0x55] small).dfState ≠ .searching ∧
    [0x04, 0x53, 0x58].length = (pushed [0x55] small).cfg.N - 1 ∧
    ∃ t, runExec ([0x04, 0x53, 0x58].map .dfr) (pushed [0x55] small) = .next t :=
  ⟨by decide, by decide, rfl, _, rfl⟩

theorem witness_InvariantHoldsAtReset : small.cfg.wf = true ∧ large.cfg.wf = true ∧ small.cfg.N = 4 ∧ large.cfg.N = 127 := by
  decide
theorem witness_StepKeepsBlockSound : (withWord 0x50550000).ok = true ∧ ∃ t, step (withWord 0x50550000) = .next t :=
  ⟨by decide, _, rfl⟩
theorem witness_CommandsWriteOnlyTheirState : (∀ l c, Instr.chk 0x37 0 0 ≠ .senc l c ∧ Instr.chk 0x37 0 0 ≠ .fenc l c) ∧
    (∀ a l o, Instr.nop ≠ .chk a l o) ∧ (∀ b, Instr.nop ≠ .sdec b) ∧ (∀ b, Instr.nop ≠ .dfr b) ∧
    ∃ t, exec (.chk 0x37 0 0) State.reset = .next t :=
  ⟨fun _ _ => ⟨fun h => (nomatch h), fun h => (nomatch h)⟩, fun _ _ _ h => (nomatch h), fun _ h => (nomatch h),
    fun _ h => (nomatch h), _, rfl⟩
theorem witness_ErrReportsOutcome : (∃ t, runWord 0x20000A05 State.reset = .next t ∧ t.err = 1) ∧
    (∃ t, runWord 0x40003DFF State.reset = .next t ∧ t.err = 1) ∧
    ∃ t, runWord 0x60000000 State.reset = .next t ∧ t.err = 2 :=
  ⟨⟨_, rfl, rfl⟩, ⟨_, rfl, rfl⟩, _, rfl, rfl⟩
theorem witness_DoutOnlyGrows : ∃ t, step ((pushed [0x03] inBody).withFetchWord 32 0x50420000) = .next t ∧
    ((pushed [0x03] inBody).withFetchWord 32 0x50420000).inReset = false ∧ t.dout = [[0x01, 0x02, 0x03]] :=
  ⟨_, rfl, rfl, rfl⟩

theorem witness_HostReadsHaveNoSideEffect : ({ inBody with host := [.read 1 0x23F] } : State).inReset = false ∧
    ({ inBody with host := [.read 1 0x23F] } : State).host = .read 1 0x23F :: [] ∧
    ∃ t, step { inBody with host := [.read 1 0x23F] } = .next t := ⟨rfl, rfl, _, rfl⟩
theorem witness_HostReadFollowsAddressMap : (0x0FF : Addr).toNat ≤ 0x0FF ∧
    (0x100 ≤ (0x100 : Addr).toNat ∧ (0x1FF : Addr).toNat ≤ 0x1FF) ∧
    (0x200 ≤ (0x200 : Addr).toNat ∧ (0x27F : Addr).toNat ≤ 0x27F ∧ (0x23F : Addr).toNat - 0x200 < State.reset.cfg.N ∧
      State.reset.cfg.N ≤ (0x240 : Addr).toNat - 0x200) ∧
    0x280 ≤ (0x280 : Addr).toNat ∧ 0x280 ≤ (0xFFF : Addr).toNat ∧
    (0x300 ≤ (0x300 : Addr).toNat ∧ (0x33C : Addr).toNat ≤ 0x33F ∧ (0x33C : Addr).toNat % 4 = 0) ∧
    (0x2FC : Addr).toNat < 0x300 ∧ 0x33F < (0x340 : Addr).toNat ∧ (0x33F : Addr).toNat % 4 ≠ 0 ∧ 2 ≠ 1 ∧ 2 ≠ 4 := by decide

/-- A host about to make one write. -/
def writing (n : Nat) (a : Addr) (v : Word) : State := { State.reset with host := [.write n a (.lit v)] }

theorem witness_HostWritesReachOnlyIbuf : (writing 1 0x0FF 0xAB).inReset = false ∧
    (writing 1 0x0FF 0xAB).host = .write 1 0x0FF (.lit 0xAB) :: [] ∧ (0x0FF : Addr).toNat ≤ 0x0FF ∧
    ¬(1 = 1 ∧ (0x100 : Addr).toNat ≤ 0x0FF) ∧ ¬(4 = 1 ∧ (0x304 : Addr).toNat ≤ 0x0FF) ∧
    ¬(4 = 4 ∧ (0x304 : Addr).toNat = 0x300) ∧ ¬(1 = 4 ∧ (0x300 : Addr).toNat = 0x300) := by decide
theorem witness_RegisterWordsHoldTheirFields : small.cfg.wf = true ∧ large.cfg.wf = true ∧ 8 ≤ 15 := by decide
theorem witness_ResetStateIsAsListed : State.reset = State.resetWith Params.default := rfl
theorem witness_ReleaseOfResetRestoresState : ∃ s : State, s.inReset = true ∧ s.host = .releaseReset :: [] ∧
    s.dout = [[0x01]] :=
  ⟨{ State.reset with inReset := true, host := [.releaseReset], dout := [[0x01]] }, rfl, rfl, rfl⟩
theorem witness_HostAccessDuringResetIsRefused : (held.inReset = true ∧ held.host = .read 4 0x304 :: [.releaseReset]) ∧
    ({ writing 4 0x300 0 with inReset := true } : State).inReset = true ∧
    ({ State.reset with host := [.assertReset] } : State).host = .assertReset :: [] := ⟨⟨rfl, rfl⟩, rfl, rfl⟩

theorem witness_AssembledCommandRuns :
    assembleLine (.chk 255 0 255) = some [.write 4 0x300 (.lit 0x10FF00FF)] ∧
    assembleLine (.senc 4 10) = some [.write 4 0x300 (.lit 0x2000040A)] ∧
    assembleLine (.sdec 192) = some [.write 4 0x300 (.lit 0x30C00000)] ∧
    assembleLine (.fenc 3 7) = some [.write 4 0x300 (.lit 0x40000307)] ∧
    assembleLine (.dfr 85) = some [.write 4 0x300 (.lit 0x50550000)] ∧ assembleLine (.dfr 256) = none ∧
    (withWord 0x50550000).inReset = false ∧
    (withWord 0x50550000).host = cmdEvent (.dfr 0x55) :: [.read 4 0x304] := by decide
theorem witness_AssembledCommandRuns_host : assembleLine (.wr8 4095 255) = some [.write 1 0xFFF (.lit 255)] ∧
    assembleLine (.wr32 768 4294967295) = some [.write 4 0x300 (.lit 0xFFFFFFFF)] ∧
    assembleLine (.rd8 256) = some [.read 1 0x100] ∧ assembleLine (.rd32 776) = some [.read 4 0x308] := by decide
theorem witness_PseudoInstructionsExpand : [0x01, 0xFF] ≠ ([] : List Nat) ∧
    assembleLine (.load 0xFE [0x01, 0xFF]) =
      some [.write 1 0x0FE (.lit 0x01), .write 1 0x0FF (.lit 0xFF)] := by decide
theorem witness_CopyoiCopiesObufToIbuf : ∃ es, assembleLine (.copyoi 255) = some es ∧ State.reset.inReset = false ∧
    ({ State.reset with host := es ++ [.read 4 0x304] } : State).host = es ++ [.read 4 0x304] :=
  ⟨_, rfl, rfl, rfl⟩
theorem witness_InstancesStartInReset : [Params.default, small.cfg][1]? = some small.cfg ∧ small.cfg.wf = true ∧
    0 ≠ 1 ∧ (∃ s, (resetSystem [Params.default, small.cfg])[0]? = some s) ∧
    ∃ sys', stepInstance 1 (resetSystem [Params.default, small.cfg]) = .next sys' ∧
      (resetSystem [Params.default, small.cfg])[1]? = some (State.resetInstance 1 small.cfg) ∧
      sys'[1]? = some (State.resetInstance 1 small.cfg) := ⟨by decide, by decide, by decide, ⟨_, rfl⟩, _, rfl, rfl, rfl⟩
theorem witness_InstancesDoNotInteract : 0 ≠ 1 ∧ (∃ sys, stepInstance 0 [withWord 0x50550000, State.reset] = .next sys) ∧
    ∃ sys, stepInstance 1 [withWord 0x50550000, State.reset] = .next sys := ⟨by decide, ⟨_, rfl⟩, _, rfl⟩

end Sys2Proof.Tests
end

section
/-! PROOFS. Every step keeps the invariant of the block (O34; spec/10_state.md R31 to R38, spec/43_deframer.md R150 to
R160, spec/60_exceptions.md R191). The invariant's parts come first, then what a host access and a command other than DFR do
to them. A DFR command leaves the invariant during its loop and comes back to it: `InCommand` is what holds between two
passes, and `work`, the number of bytes a pass still has to look at, is what every pass that goes on makes smaller. -/

namespace Sys2Proof.Machine

/-! ## The parts of the invariant -/

theorem State.ok_iff (s : State) : s.ok = true ↔
    s.cfg.wf = true ∧ s.buffersOk = true ∧ s.sdecOk = true ∧ s.dfrOk = true ∧ s.statusOk = true := by
  simp [State.ok, and_assoc]

/-- A buffer in canonical form and within its size. -/
def Memory.Sound (size : Nat) (m : Memory) : Prop := m.wf = true ∧ m.below size = true

theorem Memory.Sound.set {size : Nat} {m : Memory} (h : m.Sound size) {i : Nat} (hi : i < size) (v : Byte) :
    (m.set i v).Sound size :=
  ⟨wf_set m i v h.1, below_set m size i v h.2 hi⟩

theorem Memory.Sound.setRange {size : Nat} {m : Memory} (h : m.Sound size) {i : Nat} {bs : List Byte}
    (hi : i + bs.length ≤ size) : (m.setRange i bs).Sound size :=
  ⟨wf_setRange m i bs h.1, below_setRange m size i bs h.2 hi⟩

theorem State.buffersOk_iff (s : State) : s.buffersOk = true ↔
    s.ibuf.Sound Config.bufSize ∧ s.obuf.Sound Config.bufSize ∧ s.acc.Sound s.cfg.N ∧ s.ring.Sound s.cfg.N := by
  simp [State.buffersOk, Memory.Sound, and_assoc]

theorem State.sdecOk_iff (s : State) :
    s.sdecOk = true ↔ s.sdPos.toNat ≤ s.cfg.N ∧ s.sdReady.toNat ≤ s.cfg.N := by
  simp [State.sdecOk]

theorem State.statusOk_iff (s : State) : s.statusOk = true ↔ s.err ≠ 3 ∧ s.emits.toNat ≤ s.cfg.N - 3 := by
  simp [State.statusOk]

/-! ## Updates the invariant does not see -/

@[simp] theorem State.ok_setHost (s : State) (v : List HostEvent) : (s.setHost v).ok = s.ok := rfl
@[simp] theorem State.ok_setInReset (s : State) (v : Bool) : (s.setInReset v).ok = s.ok := rfl
@[simp] theorem State.ok_logRead (s : State) (v : Word) : (s.logRead v).ok = s.ok := rfl
@[simp] theorem State.ok_setResult (s : State) (v : Byte) : (s.setResult v).ok = s.ok := rfl
@[simp] theorem State.ok_setSdLast (s : State) (v : Byte) : (s.setSdLast v).ok = s.ok := rfl

/-! ## Updates that keep the invariant -/

theorem State.ok_setErr {s : State} (hs : s.ok = true) {v : BitVec 2} (hv : v ≠ 3) : (s.setErr v).ok = true := by
  rw [ok_iff] at hs ⊢
  obtain ⟨hwf, hbuf, hsd, hdf, hst⟩ := hs
  exact ⟨hwf, hbuf, hsd, hdf, (statusOk_iff _).2 ⟨hv, ((statusOk_iff s).1 hst).2⟩⟩

theorem State.ok_succeed {s : State} (hs : s.ok = true) : s.succeed.ok = true := ok_setErr hs (by decide)

theorem State.ok_failCapacity {s : State} (hs : s.ok = true) : s.failCapacity.ok = true :=
  ok_setErr (s.ok_setResult 0 ▸ hs) (by decide)

theorem State.ok_setIbuf {s : State} (hs : s.ok = true) {m : Memory} (hm : m.Sound Config.bufSize) :
    (s.setIbuf m).ok = true := by
  rw [ok_iff] at hs ⊢
  obtain ⟨hwf, hbuf, hsd, hdf, hst⟩ := hs
  obtain ⟨_, hrest⟩ := (buffersOk_iff s).1 hbuf
  exact ⟨hwf, (buffersOk_iff _).2 ⟨hm, hrest⟩, hsd, hdf, hst⟩

theorem State.ok_setObuf {s : State} (hs : s.ok = true) {m : Memory} (hm : m.Sound Config.bufSize) :
    (s.setObuf m).ok = true := by
  rw [ok_iff] at hs ⊢
  obtain ⟨hwf, hbuf, hsd, hdf, hst⟩ := hs
  obtain ⟨hibuf, _, hrest⟩ := (buffersOk_iff s).1 hbuf
  exact ⟨hwf, (buffersOk_iff _).2 ⟨hibuf, hm, hrest⟩, hsd, hdf, hst⟩

theorem State.ok_setAcc {s : State} (hs : s.ok = true) {m : Memory} (hm : m.Sound s.cfg.N) :
    (s.setAcc m).ok = true := by
  rw [ok_iff] at hs ⊢
  obtain ⟨hwf, hbuf, hsd, hdf, hst⟩ := hs
  obtain ⟨hibuf, hobuf, _, hring⟩ := (buffersOk_iff s).1 hbuf
  exact ⟨hwf, (buffersOk_iff _).2 ⟨hibuf, hobuf, hm, hring⟩, hsd, hdf, hst⟩

theorem State.ok_setSdPos {s : State} (hs : s.ok = true) {v : Byte} (hv : v.toNat ≤ s.cfg.N) :
    (s.setSdPos v).ok = true := by
  rw [ok_iff] at hs ⊢
  obtain ⟨hwf, hbuf, hsd, hdf, hst⟩ := hs
  exact ⟨hwf, hbuf, (sdecOk_iff _).2 ⟨hv, ((sdecOk_iff s).1 hsd).2⟩, hdf, hst⟩

theorem State.ok_setSdReady {s : State} (hs : s.ok = true) {v : Byte} (hv : v.toNat ≤ s.cfg.N) :
    (s.setSdReady v).ok = true := by
  rw [ok_iff] at hs ⊢
  obtain ⟨hwf, hbuf, hsd, hdf, hst⟩ := hs
  exact ⟨hwf, hbuf, (sdecOk_iff _).2 ⟨((sdecOk_iff s).1 hsd).1, hv⟩, hdf, hst⟩

/-- The release of reset establishes the invariant for any legal parameters (R39). -/
theorem State.ok_takeReset {s : State} (hwf : s.cfg.wf = true) : s.takeReset.ok = true := by
  rw [ok_iff]
  refine ⟨hwf, rfl, ?_, ?_, ?_⟩
  · simp [sdecOk_iff, takeReset_eq, resetWith]
  · simp [dfrOk, posOk, takeReset_eq, resetWith, pmod_pos hwf]
  · simp [statusOk_iff, takeReset_eq, resetWith]

/-! ## The encoders -/

theorem length_stuff_le (c : Params) (b : List Byte) : (stuff c b).length ≤ 2 * b.length + 2 := by
  have hbody : (b.flatMap (escByte c)).length ≤ 2 * b.length := by
    induction b with
    | nil => simp
    | cons x b ih =>
      have hx : (escByte c x).length ≤ 2 := by rw [length_escByte]; split <;> omega
      simp only [List.flatMap_cons, List.length_append, List.length_cons]
      omega
  simp only [stuff_eq, List.length_cons, List.length_append, List.length_nil]
  omega

theorem length_frame (c : Params) (p : List Byte) : (frame c p).length = p.length + 4 := by
  simp [frame]

/-- An encoder's output that fits OBUF is delivered within the invariant. -/
theorem State.ok_deliver {s : State} (hs : s.ok = true) {out : List Byte} (h : out.length ≤ Config.bufSize) :
    (s.deliver out).ok = true := by
  obtain ⟨_, hbuf, _⟩ := s.ok_iff.1 hs
  obtain ⟨_, hobuf, _⟩ := s.buffersOk_iff.1 hbuf
  exact ok_setObuf hs (hobuf.setRange (by omega))

theorem execSenc_ok {s t : State} {len cap : Byte} (hs : s.ok = true) (h : execSenc len cap s = .next t) :
    t.ok = true := by
  unfold execSenc at h
  split at h <;> cases h
  · exact State.ok_failCapacity hs
  · have hlen := length_stuff_le s.cfg (s.ibufPrefix len.toNat)
    rw [length_ibufPrefix] at hlen
    have := cap.isLt
    exact State.ok_succeed (State.ok_deliver hs (by unfold Config.bufSize; omega))

theorem execFenc_ok {s t : State} {len cap : Byte} (hs : s.ok = true) (h : execFenc len cap s = .next t) :
    t.ok = true := by
  unfold execFenc at h
  split at h <;> cases h
  · exact State.ok_failCapacity hs
  · have hlen := length_frame s.cfg (s.ibufPrefix len.toNat)
    rw [length_ibufPrefix] at hlen
    have := cap.isLt
    exact State.ok_succeed (State.ok_deliver hs (by unfold Config.bufSize; omega))

/-! ## The stuffing decoder -/

/-- `Append` writes below N and counts up to N: at N the accumulation restarts (R117). -/
theorem State.ok_append {s : State} (hs : s.ok = true) (v : Byte) : (s.append v).ok = true := by
  obtain ⟨hwf, hbuf, hsd, _⟩ := s.ok_iff.1 hs
  obtain ⟨_, _, hacc, _⟩ := s.buffersOk_iff.1 hbuf
  obtain ⟨hpos, _⟩ := s.sdecOk_iff.1 hsd
  have hN := four_le_N hwf
  have hN' := N_le_127 hwf
  have hlt : (if s.sdPos.toNat = s.cfg.N then 0 else s.sdPos : Byte).toNat < s.cfg.N := by
    split
    · simp; omega
    · omega
  refine ok_setSdPos (ok_setAcc hs (hacc.set hlt v)) ?_
  have hone : (1 : Byte).toNat = 1 := rfl
  rw [State.setAcc_cfg, BitVec.toNat_add, hone]
  omega

theorem State.ok_sdecEnd {s : State} (hs : s.ok = true) : s.sdecEnd.ok = true := by
  obtain ⟨_, _, hsd, _⟩ := s.ok_iff.1 hs
  obtain ⟨hpos, _⟩ := s.sdecOk_iff.1 hsd
  unfold sdecEnd
  rw [ok_setSdLast]
  split
  · exact hs
  · exact ok_setSdPos (ok_setSdReady hs hpos) (by simp)

theorem State.ok_sdecData {s : State} (hs : s.ok = true) (b : Byte) : (s.sdecData b).ok = true := by
  rw [sdecData_eq]
  change (State.setSdLast _ b).ok = true
  rw [ok_setSdLast]
  split
  · exact ok_append hs _
  · exact hs

theorem execSdec_ok {s t : State} {b : Byte} (hs : s.ok = true) (h : execSdec b s = .next t) : t.ok = true := by
  have h0 : (s.setSdReady 0).ok = true := State.ok_setSdReady hs (by simp)
  cases h
  apply State.ok_succeed
  split
  · exact State.ok_sdecEnd h0
  · exact State.ok_sdecData h0 b

end Sys2Proof.Machine
end

section
/-! PROOFS. The de-framer within one DFR command (O34; spec/43_deframer.md R150 to R160): what holds between two passes of
the loop, and that the loop ends in the invariant of R38 with at most `N - 3` datagrams. -/

namespace Sys2Proof.Machine

/-! ## The bytes from a position up to `df_push` -/

/-- At most `N` bytes lie from position `p` up to `push`, both in range, and all of them have been written. -/
structure Window (c : Params) (ring : Memory) (push p : Byte) : Prop where
  wf : c.wf = true
  push_lt : push.toNat < Params.pmod c
  pos_lt : p.toNat < Params.pmod c
  dist_le : dist c p push ≤ c.N
  written : ∀ k, k < dist c p push → (ring.get? ((p.toNat + k) % c.N)).isSome = true

theorem dist_self {c : Params} {p : Byte} (hp : p.toNat < Params.pmod c) : dist c p p = 0 := by
  simp [dist_eq p p hp hp]

theorem Window.empty {c : Params} (hwf : c.wf = true) (ring : Memory) {p : Byte} (hp : p.toNat < Params.pmod c) :
    Window c ring p p where
  wf := hwf
  push_lt := hp
  pos_lt := hp
  dist_le := by rw [dist_self hp]; exact Nat.zero_le _
  written k hk := by rw [dist_self hp] at hk; omega

/-- The distance up to `push` ends, as a ring index, at the index of `push`. -/
theorem Window.index_push {c : Params} {ring : Memory} {push p : Byte} (h : Window c ring push p) :
    (p.toNat + dist c p push) % c.N = push.toNat % c.N := by
  rw [← add_dist h.wf p push h.push_lt]
  exact (Nat.mod_mod_of_dvd _ ⟨2, Nat.mul_comm _ _⟩).symm

/-- The same bytes without the first. -/
theorem Window.dist_next {c : Params} {ring : Memory} {push p : Byte} (h : Window c ring push p)
    (hd : dist c p push ≠ 0) : dist c (nextPos c p) push = dist c p push - 1 :=
  dist_nextPos_left h.wf p push h.pos_lt h.push_lt hd

theorem Window.next {c : Params} {ring : Memory} {push p : Byte} (h : Window c ring push p)
    (hd : dist c p push ≠ 0) : Window c ring push (nextPos c p) where
  wf := h.wf
  push_lt := h.push_lt
  pos_lt := nextPos_lt h.wf p
  dist_le := by
    have := h.dist_le
    rw [h.dist_next hd]
    omega
  written k hk := by
    rw [h.dist_next hd] at hk
    have := h.written (k + 1) (by omega)
    rwa [Nat.add_mod, nextPos_mod_N h.wf, ← Nat.add_mod, Nat.add_assoc, Nat.add_comm 1 k]

/-- The same bytes and the one a DFR command takes in (R151). -/
theorem Window.dist_push {c : Params} {ring : Memory} {push p : Byte} (h : Window c ring push p)
    (hd : dist c p push < c.N) : dist c p (nextPos c push) = dist c p push + 1 :=
  dist_nextPos_right h.wf p push h.pos_lt h.push_lt (by
    have := four_le_N h.wf
    unfold Params.pmod
    omega)

theorem Window.push {c : Params} {ring : Memory} {push p : Byte} (h : Window c ring push p)
    (hd : dist c p push < c.N) (b : Byte) :
    Window c (ring.set (push.toNat % c.N) b) (nextPos c push) p where
  wf := h.wf
  push_lt := nextPos_lt h.wf push
  pos_lt := h.pos_lt
  dist_le := by
    rw [h.dist_push hd]
    omega
  written k hk := by
    rw [h.dist_push hd] at hk
    rw [Memory.get?_set]
    split
    · rfl
    · rename_i hne
      have hk' : k ≠ dist c p push := fun he => hne (he ▸ h.index_push)
      exact h.written k (by omega)

/-- Where the scan of R153 stops: at a MAGIC, with the bytes from there on among those it started with. -/
theorem Window.scan {s : State} {p q : Byte} (h : Window s.cfg s.ring s.dfPush p)
    (hq : s.scan (dist s.cfg p s.dfPush) p = some q) :
    Window s.cfg s.ring s.dfPush q ∧ s.ringAt q.toNat = s.cfg.MAGIC ∧
      1 ≤ dist s.cfg q s.dfPush ∧ dist s.cfg q s.dfPush ≤ dist s.cfg p s.dfPush := by
  generalize hk : dist s.cfg p s.dfPush = k at hq
  induction k generalizing p with
  | zero => cases hq
  | succ k ih =>
    have hd : dist s.cfg p s.dfPush ≠ 0 := by omega
    simp only [State.scan] at hq
    split at hq
    · rename_i hm
      cases hq
      exact ⟨h, hm, by omega, by omega⟩
    · have hd' := h.dist_next hd
      obtain ⟨hw, hm, h1, h2⟩ := ih (h.next hd) (by omega) hq
      exact ⟨hw, hm, h1, by omega⟩

/-! ## The pending candidate -/

/-- What holds of a candidate within a command: item 2 of R38, and item 5 for its bytes, but with room for one byte more than
between commands. -/
structure Candidate (s : State) : Prop where
  window : Window s.cfg s.ring s.dfPush s.dfStart
  look : s.dfLook = nextPos s.cfg s.dfStart
  magic : s.candByte 0 = s.cfg.MAGIC
  avail_pos : 1 ≤ s.avail

theorem Candidate.setDfState {s : State} (h : Candidate s) (v : DfrState) : Candidate (s.setDfState v) :=
  ⟨h.window, h.look, h.magic, h.avail_pos⟩

theorem Candidate.avail_le {s : State} (h : Candidate s) : s.avail ≤ s.cfg.N := h.window.dist_le

theorem State.declared_le_of_headerOk {s : State} (h : s.headerOk = true) : s.declared ≤ s.cfg.N := by
  simp only [headerOk, sizeOk, Bool.and_eq_true, decide_eq_true_eq] at h
  exact h.2.2

theorem State.sizeOk_of_headerOk {s : State} (h : s.headerOk = true) : s.sizeOk = true := by
  simp only [headerOk, Bool.and_eq_true] at h
  exact h.2

theorem State.candWritten_iff (s : State) : s.candWritten = true ↔
    ∀ k, k < s.avail → (s.ring.get? ((s.dfStart.toNat + k) % s.cfg.N)).isSome = true := by
  simp [State.candWritten]

theorem State.posOk_iff (s : State) : s.posOk = true ↔
    s.dfPush.toNat < Params.pmod s.cfg ∧ s.dfLook.toNat < Params.pmod s.cfg ∧
      (s.dfState = .searching ∨ s.dfStart.toNat < Params.pmod s.cfg) := by
  simp [State.posOk, and_assoc]

theorem pendingOk_iff {s : State} (hwf : s.cfg.wf = true) (hst : s.dfState ≠ .searching) :
    (s.posOk = true ∧ s.pendingOk = true) ↔ Candidate s ∧ s.avail ≤ s.cfg.N - 1 := by
  simp only [State.posOk_iff, State.pendingOk, Bool.and_eq_true, decide_eq_true_eq, State.candWritten_iff]
  constructor
  · rintro ⟨⟨hpush, _, hstart⟩, ⟨⟨⟨hlook, hmagic⟩, hpos⟩, hle⟩, hwritten⟩
    have hstart := hstart.resolve_left hst
    exact ⟨⟨⟨hwf, hpush, hstart, Nat.le_trans hle (Nat.sub_le _ _), hwritten⟩, hlook, hmagic, hpos⟩, hle⟩
  · rintro ⟨⟨hw, hlook, hmagic, hpos⟩, hle⟩
    have hlt : s.dfLook.toNat < Params.pmod s.cfg := hlook ▸ nextPos_lt hwf _
    exact ⟨⟨hw.push_lt, hlt, .inr hw.pos_lt⟩, ⟨⟨⟨hlook, hmagic⟩, hpos⟩, hle⟩, hw.written⟩

/-! ## The de-framer between commands, state by state (R38) -/

theorem dfrOk_searching_iff {s : State} (hst : s.dfState = .searching) :
    s.dfrOk = true ↔ s.dfPush.toNat < Params.pmod s.cfg ∧ s.dfLook = s.dfPush := by
  simp only [State.dfrOk, hst, Bool.and_eq_true, decide_eq_true_eq, State.posOk_iff]
  constructor
  · rintro ⟨⟨hpush, _⟩, hlook⟩
    exact ⟨hpush, hlook⟩
  · rintro ⟨hpush, hlook⟩
    exact ⟨⟨hpush, hlook ▸ hpush, .inl trivial⟩, hlook⟩

theorem dfrOk_headerWait_iff {s : State} (hwf : s.cfg.wf = true) (hst : s.dfState = .headerWait) :
    s.dfrOk = true ↔ Candidate s ∧ s.avail ≤ 2 := by
  have hN := four_le_N hwf
  have hiff := pendingOk_iff hwf (s := s) (by simp [hst])
  simp only [State.dfrOk, hst, Bool.and_eq_true, decide_eq_true_eq, ← and_assoc, hiff]
  constructor
  · rintro ⟨⟨hc, _⟩, h2⟩
    exact ⟨hc, h2⟩
  · rintro ⟨hc, h2⟩
    exact ⟨⟨hc, by omega⟩, h2⟩

theorem dfrOk_bodyWait_iff {s : State} (hwf : s.cfg.wf = true) (hst : s.dfState = .bodyWait) :
    s.dfrOk = true ↔ Candidate s ∧ s.headerOk = true ∧ 3 ≤ s.avail ∧ s.avail < s.declared := by
  have hiff := pendingOk_iff hwf (s := s) (by simp [hst])
  simp only [State.dfrOk, hst, Bool.and_eq_true, decide_eq_true_eq, ← and_assoc, hiff]
  constructor
  · rintro ⟨⟨⟨⟨hc, _⟩, hh⟩, h3⟩, hlt⟩
    exact ⟨⟨⟨hc, hh⟩, h3⟩, hlt⟩
  · rintro ⟨⟨⟨hc, hh⟩, h3⟩, hlt⟩
    have := State.declared_le_of_headerOk hh
    exact ⟨⟨⟨⟨hc, by omega⟩, hh⟩, h3⟩, hlt⟩

/-! ## Between two passes -/

/-- What holds before every pass of the loop (R150): the bytes a search still has to visit, or the candidate's, are at most
`N` and all written, and BODY_WAIT has a header that passed its check. -/
inductive InCommand (s : State) : Prop where
  | searching (hst : s.dfState = .searching) (hw : Window s.cfg s.ring s.dfPush s.dfLook)
  | headerWait (hst : s.dfState = .headerWait) (hc : Candidate s)
  | bodyWait (hst : s.dfState = .bodyWait) (hc : Candidate s) (hh : s.headerOk = true) (h3 : 3 ≤ s.avail)

/-- The number of bytes a pass still has to look at: those to search, or the candidate's. -/
def State.work (s : State) : Nat :=
  match s.dfState with
  | .searching => dist s.cfg s.dfLook s.dfPush
  | .headerWait => s.avail
  | .bodyWait => s.avail

theorem State.work_searching {s : State} (h : s.dfState = .searching) :
    s.work = dist s.cfg s.dfLook s.dfPush := by simp [work, h]

theorem State.work_headerWait {s : State} (h : s.dfState = .headerWait) : s.work = s.avail := by simp [work, h]

theorem State.work_bodyWait {s : State} (h : s.dfState = .bodyWait) : s.work = s.avail := by simp [work, h]

theorem InCommand.work_le {s : State} (h : InCommand s) : s.work ≤ s.cfg.N := by
  cases h with
  | searching hst hw => rw [State.work_searching hst]; exact hw.dist_le
  | headerWait hst hc => rw [State.work_headerWait hst]; exact hc.avail_le
  | bodyWait hst hc => rw [State.work_bodyWait hst]; exact hc.avail_le

/-- How a pass with at most `w` bytes to look at and `n` datagrams emitted before it ends. It stops in the invariant with no
more datagrams; or it goes on with less work. A datagram takes a candidate of at least 4 bytes, so `w - 3` bounds how
many can still come, and one that is emitted uses up one of them. -/
inductive PassEnd (w n : Nat) (r : Pass) : Prop where
  | stop (again : r.again = false) (ok : r.st.dfrOk = true) (count : r.count = n)
  | goOn (again : r.again = true) (inv : InCommand r.st) (work : r.st.work < w)
      (count : r.count + (r.st.work - 3) ≤ n + (w - 3))

theorem PassEnd.mono {w w' n : Nat} {r : Pass} (h : PassEnd w n r) (hw : w ≤ w') : PassEnd w' n r := by
  cases h with
  | stop again ok count => exact .stop again ok count
  | goOn again inv work count => exact .goOn again inv (by omega) (by omega)

/-- Giving a candidate up leaves its bytes but the first to search (R154, R158). -/
theorem Candidate.search_rest {s t : State} (hc : Candidate s) (hst : t.dfState = .searching)
    (hcfg : t.cfg = s.cfg) (hring : t.ring = s.ring) (hpush : t.dfPush = s.dfPush)
    (hlook : t.dfLook = nextPos s.cfg s.dfStart) : InCommand t ∧ t.work = s.avail - 1 := by
  have hd : dist s.cfg s.dfStart s.dfPush ≠ 0 := Nat.ne_of_gt hc.avail_pos
  refine ⟨.searching hst ?_, ?_⟩
  · rw [hcfg, hring, hpush, hlook]
    exact hc.window.next hd
  · rw [State.work_searching hst, hcfg, hpush, hlook]
    exact hc.window.dist_next hd

theorem dfrBody_end {s : State} (n : Nat) (hst : s.dfState = .bodyWait) (hc : Candidate s)
    (hh : s.headerOk = true) (h3 : 3 ≤ s.avail) : PassEnd s.avail n (dfrBody s n) := by
  rcases dfrBody_cases s n with ⟨hlt, h⟩ | ⟨_, hsize, _⟩ | ⟨hle, _, htrail, h⟩ | ⟨_, _, _, h⟩
  · rw [h]
    exact .stop rfl ((dfrOk_bodyWait_iff hc.window.wf hst).2 ⟨hc, hh, h3, hlt⟩) rfl
  · rw [State.sizeOk_of_headerOk hh] at hsize
    cases hsize
  · have h4 : 4 ≤ s.declared := by
      simp only [State.trailerOk, Bool.and_eq_true, decide_eq_true_eq] at htrail
      exact htrail.1
    obtain ⟨hin, hwork⟩ := hc.search_rest (t := (s.emit s.payload).resume) rfl rfl rfl rfl rfl
    rw [h]
    exact .goOn rfl hin (by simp only; omega) (by simp only; omega)
  · obtain ⟨hin, hwork⟩ := hc.search_rest (t := s.resume) rfl rfl rfl rfl rfl
    rw [h]
    exact .goOn rfl hin (by simp only; omega) (by simp only; omega)

theorem dfrHeader_end {s : State} (n : Nat) (hst : s.dfState = .headerWait) (hc : Candidate s) :
    PassEnd s.avail n (dfrHeader s n) := by
  rcases dfrHeader_cases s n with ⟨hlt, h⟩ | ⟨h3, hh, h⟩ | ⟨h3, _, h⟩ <;> rw [h]
  · exact .stop rfl ((dfrOk_headerWait_iff hc.window.wf hst).2 ⟨hc, by omega⟩) rfl
  · exact dfrBody_end n rfl (hc.setDfState .bodyWait) hh h3
  · obtain ⟨hin, hwork⟩ := hc.search_rest (t := s.setDfState .searching) rfl rfl rfl rfl hc.look
    exact .goOn rfl hin (by simp only; omega) (by simp only; omega)

/-- The candidate the scan finds (R153). -/
theorem candidate_of_scan {s : State} {q : Byte} (hw : Window s.cfg s.ring s.dfPush s.dfLook)
    (hq : s.scan (dist s.cfg s.dfLook s.dfPush) s.dfLook = some q) :
    Candidate (s.candidate q) ∧ (s.candidate q).avail ≤ dist s.cfg s.dfLook s.dfPush := by
  obtain ⟨hwq, hmagic, hpos, hle⟩ := hw.scan hq
  exact ⟨⟨hwq, rfl, hmagic, hpos⟩, hle⟩

theorem dfrSearch_end {s : State} (n : Nat) (hst : s.dfState = .searching)
    (hw : Window s.cfg s.ring s.dfPush s.dfLook) : PassEnd (dist s.cfg s.dfLook s.dfPush) n (dfrSearch s n) := by
  rcases dfrSearch_cases s n with ⟨q, hq, h⟩ | ⟨_, h⟩ <;> rw [h]
  · obtain ⟨hc, hle⟩ := candidate_of_scan hw hq
    exact (dfrHeader_end n rfl hc).mono hle
  · exact .stop rfl ((dfrOk_searching_iff (s := s.setDfLook s.dfPush) hst).2 ⟨hw.push_lt, rfl⟩) rfl

theorem dfrPass_end {s : State} (n : Nat) (h : InCommand s) : PassEnd s.work n (dfrPass s n) := by
  cases h with
  | searching hst hw =>
    simp only [dfrPass, State.work, hst]
    exact dfrSearch_end n hst hw
  | headerWait hst hc =>
    simp only [dfrPass, State.work, hst]
    exact dfrHeader_end n hst hc
  | bodyWait hst hc hh h3 =>
    simp only [dfrPass, State.work, hst]
    exact dfrBody_end n hst hc hh h3

/-- With more passes allowed than there are bytes to look at, the loop ends in the invariant (R159, R160). -/
theorem dfrLoop_end {fuel : Nat} {s : State} (n : Nat) (h : InCommand s) (hf : s.work < fuel) :
    (dfrLoop fuel s n).st.dfrOk = true ∧ (dfrLoop fuel s n).count ≤ n + (s.work - 3) := by
  induction fuel generalizing s n with
  | zero => omega
  | succ fuel ih =>
    simp only [dfrLoop]
    cases dfrPass_end n h with
    | stop again ok count =>
      rw [if_neg (by simp [again])]
      exact ⟨ok, by omega⟩
    | goOn again inv work count =>
      rw [if_pos again]
      obtain ⟨hok, hcount⟩ := ih (dfrPass s n).count inv (by omega)
      exact ⟨hok, by omega⟩

/-! ## The intake -/

/-- The new byte overwrites no byte of a candidate of fewer than `N` bytes. -/
theorem candByte_intake {s : State} (hw : Window s.cfg s.ring s.dfPush s.dfStart) (hlt : s.avail < s.cfg.N)
    (b : Byte) {k : Nat} (hk : k < s.avail) : (s.intake b).candByte k = s.candByte k := by
  have hne : (s.dfStart.toNat + k) % s.cfg.N ≠ s.dfPush.toNat % s.cfg.N := by
    rw [← hw.index_push]
    intro h
    have hmod : k % s.cfg.N = s.avail % s.cfg.N := Nat.ModEq.add_left_cancel' _ h
    rw [Nat.mod_eq_of_lt (by omega), Nat.mod_eq_of_lt hlt] at hmod
    omega
  exact (ringAt_intake s b _).trans (if_neg hne)

/-- A pending candidate takes one byte in. -/
theorem Candidate.intake {s : State} (hc : Candidate s) (hlt : s.avail < s.cfg.N) (b : Byte) :
    Candidate (s.intake b) ∧ (s.intake b).avail = s.avail + 1 := by
  have havail : (s.intake b).avail = s.avail + 1 := hc.window.dist_push hlt
  refine ⟨⟨hc.window.push hlt b, hc.look, ?_, by omega⟩, havail⟩
  exact (candByte_intake hc.window hlt b hc.avail_pos).trans hc.magic

theorem headerOk_intake {s : State} (hc : Candidate s) (hlt : s.avail < s.cfg.N) (h3 : 3 ≤ s.avail) (b : Byte) :
    (s.intake b).headerOk = s.headerOk := by
  have h0 := candByte_intake hc.window hlt b (k := 0) (by omega)
  have h1 := candByte_intake hc.window hlt b (k := 1) (by omega)
  have h2 := candByte_intake hc.window hlt b (k := 2) (by omega)
  unfold State.headerOk State.sizeOk State.declared
  rw [h0, h1, h2]
  rfl

/-- The intake leads from the invariant into the loop. -/
theorem intake_inCommand {s : State} (hwf : s.cfg.wf = true) (h : s.dfrOk = true) (b : Byte) :
    InCommand (s.intake b) := by
  have hN := four_le_N hwf
  cases hst : s.dfState with
  | searching =>
    obtain ⟨hpush, hlook⟩ := (dfrOk_searching_iff hst).1 h
    have hd : dist s.cfg s.dfPush s.dfPush < s.cfg.N := by
      rw [dist_self hpush]
      omega
    have hlook' : (s.intake b).dfLook = s.dfPush := hlook
    refine .searching hst ?_
    rw [hlook']
    exact (Window.empty hwf s.ring hpush).push hd b
  | headerWait =>
    obtain ⟨hc, h2⟩ := (dfrOk_headerWait_iff hwf hst).1 h
    exact .headerWait hst (hc.intake (by omega) b).1
  | bodyWait =>
    obtain ⟨hc, hh, h3, hlt⟩ := (dfrOk_bodyWait_iff hwf hst).1 h
    have hN : s.avail < s.cfg.N := Nat.lt_of_lt_of_le hlt (State.declared_le_of_headerOk hh)
    obtain ⟨hc', havail⟩ := hc.intake hN b
    exact .bodyWait hst hc' ((headerOk_intake hc hN h3 b).trans hh) (by omega)

/-! ## The DFR command -/

theorem DfrFrame.cfg_eq {s t : State} {k : Nat} (h : DfrFrame s t k) : t.cfg = s.cfg := by
  obtain ⟨_, _, _, ht⟩ := h
  rw [ht]

theorem DfrFrame.buffersOk_eq {s t : State} {k : Nat} (h : DfrFrame s t k) : t.buffersOk = s.buffersOk := by
  obtain ⟨_, _, _, ht⟩ := h
  rw [ht]
  rfl

theorem DfrFrame.sdecOk_eq {s t : State} {k : Nat} (h : DfrFrame s t k) : t.sdecOk = s.sdecOk := by
  obtain ⟨_, _, _, ht⟩ := h
  rw [ht]
  rfl

theorem buffersOk_intake {s : State} (hwf : s.cfg.wf = true) (h : s.buffersOk = true) (b : Byte) :
    (s.intake b).buffersOk = true := by
  have hN := four_le_N hwf
  obtain ⟨hibuf, hobuf, hacc, hring⟩ := s.buffersOk_iff.1 h
  exact (State.buffersOk_iff _).2 ⟨hibuf, hobuf, hacc, hring.set (Nat.mod_lt _ (by omega)) b⟩

/-- The end of a DFR command, after a loop that left `u` and counted `n` datagrams (R150, R160). -/
theorem State.ok_setEmits_succeed {u : State} (hwf : u.cfg.wf = true) (hbuf : u.buffersOk = true)
    (hsd : u.sdecOk = true) (hdf : u.dfrOk = true) {n : Nat} (hn : n ≤ u.cfg.N - 3) :
    ((u.setEmits (BitVec.ofNat 8 n)).succeed).ok = true := by
  have hN := N_le_127 hwf
  have hemits : (BitVec.ofNat 8 n).toNat = n := by rw [BitVec.toNat_ofNat, Nat.mod_eq_of_lt (by omega)]
  exact (ok_iff _).2 ⟨hwf, hbuf, hsd, hdf, (statusOk_iff _).2 ⟨(by decide : errOk ≠ 3), hemits.trans_le hn⟩⟩

theorem execDfr_ok {s t : State} {b : Byte} (hs : s.ok = true) (h : execDfr b s = .next t) : t.ok = true := by
  obtain ⟨hwf, hbuf, hsd, hdf, _⟩ := s.ok_iff.1 hs
  have hin := intake_inCommand hwf hdf b
  have hwork : (s.intake b).work ≤ s.cfg.N := hin.work_le
  obtain ⟨hok, hcount⟩ := dfrLoop_end (fuel := dfrFuel s.cfg) 0 hin (by unfold dfrFuel; omega)
  obtain ⟨_, _, hframe⟩ := dfrLoop_frame (dfrFuel s.cfg) (s.intake b) 0
  simp only [execDfr] at h
  generalize dfrLoop (dfrFuel s.cfg) (s.intake b) 0 = r at h hok hcount hframe
  have hcfg : r.st.cfg = s.cfg := hframe.cfg_eq
  cases h
  refine State.ok_setEmits_succeed (hcfg ▸ hwf) ?_ ?_ hok (by rw [hcfg]; omega)
  · exact hframe.buffersOk_eq.trans (buffersOk_intake hwf hbuf b)
  · exact hframe.sdecOk_eq.trans hsd

end Sys2Proof.Machine
end

section
/-! PROOFS. Every command and every event at the host port keep the invariant of the block (O34). -/

namespace Sys2Proof.Machine

theorem exec_ok {i : Instr} {s t : State} (hs : s.ok = true) (h : exec i s = .next t) : t.ok = true := by
  cases i with
  | nop => cases h; exact State.ok_succeed hs
  | chk seed len off => cases h; exact State.ok_succeed ((State.ok_setResult _ _).trans hs)
  | senc len cap => exact execSenc_ok hs h
  | sdec b => exact execSdec_ok hs h
  | fenc len cap => exact execFenc_ok hs h
  | dfr b => exact execDfr_ok hs h

theorem runWord_ok {w : Word} {s t : State} (hs : s.ok = true) (h : runWord w s = .next t) : t.ok = true := by
  unfold runWord at h
  split at h
  · exact exec_ok hs h
  · cases h
    exact State.ok_setErr hs (by decide)

theorem hostWrite_ok {n : Nat} {a : Addr} {v : Word} {s t : State} (hs : s.ok = true)
    (h : hostWrite n a v s = .next t) : t.ok = true := by
  obtain ⟨_, hbuf, _⟩ := s.ok_iff.1 hs
  obtain ⟨hibuf, _⟩ := s.buffersOk_iff.1 hbuf
  rcases hostWrite_cases n a v s with ⟨_, _, he⟩ | ⟨_, ha, he⟩ | ⟨_, _, he⟩ <;> rw [he] at h
  · exact runWord_ok hs h
  · cases h
    exact State.ok_setIbuf hs (hibuf.set ha _)
  · cases h
    exact hs

theorem step_ok {s t : State} (hs : s.ok = true) (h : step s = .next t) : t.ok = true := by
  rcases step_next_cases h with ⟨_, rfl⟩ | ⟨_, _, rfl⟩ | ⟨_, _, _, rfl⟩ | ⟨_, _, _, rfl⟩ | ⟨_, _, _, _, _, rfl⟩ |
    ⟨_, _, _, rest, _, _, hw⟩
  · exact hs
  · exact hs
  · exact State.ok_takeReset (s.ok_iff.1 hs).1
  · exact hs
  · exact hs
  · exact hostWrite_ok (s.ok_setHost rest ▸ hs) hw

/-- Settles O34: by the cases of the step, and for a DFR command by induction over the passes of its loop. -/
theorem stepKeepsBlockSound : Obligations.StepKeepsBlockSound := fun _ _ => step_ok

end Sys2Proof.Machine
end

section
/-! PROOFS. The frame of every command (O35; spec/10_state.md R24, spec/20_memory.md R51, spec/41_stuffing.md R110 to R118,
spec/43_deframer.md R160). Each command's next state is the old one with only the fields the command owns replaced: one
equation per meaning, from which every clause about an unchanged field is read off. -/

namespace Sys2Proof.Machine

/-! ## One equation per meaning -/

theorem execNop_frame {s t : State} (h : execNop s = .next t) : t = { s with err := t.err } := by
  cases h
  rfl

theorem execChk_frame {s t : State} {seed len off : Byte} (h : execChk seed len off s = .next t) :
    t = { s with result := t.result, err := t.err } := by
  cases h
  rfl

theorem execSenc_frame {s t : State} {len cap : Byte} (h : execSenc len cap s = .next t) :
    t = { s with obuf := t.obuf, result := t.result, err := t.err } := by
  unfold execSenc at h
  split at h <;> cases h
  · rfl
  · rfl

theorem execFenc_frame {s t : State} {len cap : Byte} (h : execFenc len cap s = .next t) :
    t = { s with obuf := t.obuf, result := t.result, err := t.err } := by
  unfold execFenc at h
  split at h <;> cases h
  · rfl
  · rfl

/-- The receipt of a data byte writes ACC, the fill count and the lookback (R116, R117). -/
theorem sdecData_frame (s : State) (b : Byte) :
    s.sdecData b = { s with acc := (s.sdecData b).acc, sdPos := (s.sdecData b).sdPos, sdLast := b } := by
  rw [sdecData_eq]
  split
  · rfl
  · rfl

theorem execSdec_frame {s t : State} {b : Byte} (h : execSdec b s = .next t) :
    t = { s with
      acc := t.acc, sdLast := t.sdLast, sdPos := t.sdPos, sdReady := t.sdReady, err := t.err } := by
  unfold execSdec at h
  split at h <;> cases h
  · rw [sdecEnd_eq]
    rfl
  · rw [sdecData_frame]
    rfl

theorem execDfr_frame {s t : State} {b : Byte} (h : execDfr b s = .next t) :
    t = { s with
      ring := t.ring, dout := t.dout, emits := t.emits, dfState := t.dfState, dfPush := t.dfPush,
      dfLook := t.dfLook, dfStart := t.dfStart, err := t.err } := by
  obtain ⟨_, _, _, _, _, hloop⟩ := dfrLoop_frame (dfrFuel s.cfg) (s.intake b) 0
  cases h
  rw [hloop]
  rfl

/-! ## The obligation -/

/-- Settles O35: in each command's case the fields it does not own are those of `s` by its frame equation, and the clause
about the fields it does own has a premise that the command contradicts. -/
theorem commandsWriteOnlyTheirState : Obligations.CommandsWriteOnlyTheirState := by
  intro i s t h
  cases i with
  | nop => rw [execNop_frame h]; simp
  | chk seed len off => rw [execChk_frame h]; simp
  | senc len cap => rw [execSenc_frame h]; simp
  | sdec b => rw [execSdec_frame h]; simp
  | fenc len cap => rw [execFenc_frame h]; simp
  | dfr b => rw [execDfr_frame h]; simp

end Sys2Proof.Machine
end

section
/-! PROOFS. The host-visible registers (O41; spec/10_state.md R22 to R29): a register word is a concatenation of fields, so
its value is the sum of the fields, each weighted by the power of two of its lowest bit. -/

namespace Sys2Proof.Machine

/-- A concatenation as a sum. -/
theorem toNat_append_eq_add {m n : Nat} (x : BitVec m) (y : BitVec n) :
    (x ++ y).toNat = x.toNat * 2 ^ n + y.toNat := by
  rw [BitVec.toNat_append, ← Nat.shiftLeft_add_eq_or_of_lt y.isLt, Nat.shiftLeft_eq]

theorem toNat_sdecRdy (s : State) : s.sdecRdy.toNat = if s.sdReady = 0 then 0 else 1 := by
  unfold State.sdecRdy
  split
  · rfl
  · rfl

theorem toNat_startField (s : State) :
    s.startField.toNat = if s.dfState = .searching then 255 else s.dfStart.toNat := by
  unfold State.startField
  cases s.dfState with
  | searching => rfl
  | headerWait => rfl
  | bodyWait => rfl

theorem toNat_statusReg (s : State) : s.statusReg.toNat =
    s.err.toNat + 4 * s.sdecRdy.toNat + 8 * s.dfState.code.toNat + 256 * s.emits.toNat := by
  simp only [State.statusReg, toNat_append_eq_add, BitVec.toNat_zero]
  omega

theorem toNat_resultReg (s : State) : s.resultReg.toNat = s.result.toNat := by
  simp only [State.resultReg, toNat_append_eq_add, BitVec.toNat_zero]
  omega

theorem toNat_sdecSizeReg (s : State) : s.sdecSizeReg.toNat = s.sdReady.toNat := by
  simp only [State.sdecSizeReg, toNat_append_eq_add, BitVec.toNat_zero]
  omega

theorem toNat_sdecStateReg (s : State) : s.sdecStateReg.toNat = s.sdPos.toNat + 256 * s.sdLast.toNat := by
  simp only [State.sdecStateReg, toNat_append_eq_add, BitVec.toNat_zero]
  omega

theorem toNat_dfrPosReg (s : State) :
    s.dfrPosReg.toNat = s.dfPush.toNat + 256 * s.dfLook.toNat + 65536 * s.startField.toNat := by
  simp only [State.dfrPosReg, toNat_append_eq_add, BitVec.toNat_zero]
  omega

/-- The field `N` of CFG0 holds 8 bits, enough for every legal `N` (R9). -/
theorem toNat_cfg0Reg {s : State} (hwf : s.cfg.wf = true) :
    s.cfg0Reg.toNat = s.cfg.N + 256 * s.cfg.MAGIC.toNat + 65536 * Config.hdr := by
  have hN : (BitVec.ofNat 8 s.cfg.N).toNat = s.cfg.N := by
    rw [BitVec.toNat_ofNat, Nat.mod_eq_of_lt ((N_le_127 hwf).trans_lt (by decide))]
  have hhdr : (BitVec.ofNat 8 Config.hdr).toNat = Config.hdr := rfl
  simp only [State.cfg0Reg, toNat_append_eq_add, BitVec.toNat_zero, hN, hhdr]
  omega

theorem toNat_cfg1Reg (s : State) : s.cfg1Reg.toNat =
    s.cfg.END.toNat + 256 * s.cfg.ESC.toNat + 65536 * s.cfg.ESC_END.toNat + 16777216 * s.cfg.ESC_ESC.toNat := by
  simp only [State.cfg1Reg, toNat_append_eq_add]
  omega

/-- The slots past CFG1 are reserved (R29). -/
theorem regRead_reserved (s : State) {k : Nat} (hk : 8 ≤ k) : s.regRead k = 0 := by
  obtain ⟨j, rfl⟩ := Nat.exists_eq_add_of_le hk
  rw [Nat.add_comm]
  rfl

/-- Settles O41: slot by slot, each register's word as the sum of its fields. -/
theorem registerWordsHoldTheirFields : Obligations.RegisterWordsHoldTheirFields := by
  intro s
  refine ⟨rfl, ?_, toNat_resultReg s, toNat_sdecSizeReg s, toNat_sdecStateReg s, ?_, toNat_cfg0Reg, toNat_cfg1Reg s,
    fun _ => regRead_reserved s⟩
  · refine (toNat_statusReg s).trans ?_
    rw [toNat_sdecRdy]
    cases s.dfState with
    | searching => rfl
    | headerWait => rfl
    | bodyWait => rfl
  · exact (toNat_dfrPosReg s).trans (by rw [toNat_startField])

end Sys2Proof.Machine
end

section
/-! PROOFS. The state right after reset (O33, O42; spec/10_state.md R38, R39, spec/70_reset_and_hazards.md R210). -/

namespace Sys2Proof.Machine

/-- The reset state is what a release of reset gives, but for the count of resets in `draw`, which the invariant does not
read without a candidate. -/
theorem State.ok_resetWith {c : Params} (hwf : c.wf = true) : (State.resetWith c).ok = true :=
  ok_takeReset (s := resetWith c) hwf

/-- Settles O33: the release of reset gives the invariant for all legal parameters, and the defaults are legal. -/
theorem invariantHoldsAtReset : Obligations.InvariantHoldsAtReset :=
  ⟨State.ok_resetWith (by decide), fun _ => State.ok_resetWith⟩

/-- A buffer that nothing has written reads as its draw (U2). -/
@[simp] theorem Memory.read_nil (d : Draw) (b : Buf) (i : Nat) :
    Memory.read [] d b i = Config.powerUpByte d b i := rfl

theorem statusReg_resetWith (c : Params) : (State.resetWith c).statusReg = 0 :=
  BitVec.eq_of_toNat_eq (toNat_statusReg _)

theorem resultReg_resetWith (c : Params) : (State.resetWith c).resultReg = 0 :=
  BitVec.eq_of_toNat_eq (toNat_resultReg _)

theorem sdecSizeReg_resetWith (c : Params) : (State.resetWith c).sdecSizeReg = 0 :=
  BitVec.eq_of_toNat_eq (toNat_sdecSizeReg _)

theorem sdecStateReg_resetWith (c : Params) : (State.resetWith c).sdecStateReg = 0#16 ++ c.END ++ 0#8 := by
  have hlast : (State.resetWith c).sdLast = c.END := rfl
  have hpos : (State.resetWith c).sdPos = 0#8 := rfl
  rw [State.sdecStateReg, hlast, hpos]

theorem dfrPosReg_resetWith (c : Params) : (State.resetWith c).dfrPosReg = 0x00FF0000 := by
  have hstart : (State.resetWith c).startField = 0xFF := rfl
  have hlook : (State.resetWith c).dfLook = 0 := rfl
  have hpush : (State.resetWith c).dfPush = 0 := rfl
  rw [State.dfrPosReg, hstart, hlook, hpush]
  decide

/-- Settles O42: the fields as `State.resetWith` lists them, the buffers empty, and the registers computed from both. -/
theorem resetStateIsAsListed : Obligations.ResetStateIsAsListed := by
  rintro c s rfl
  have hbufs (i : Nat) : (State.resetWith c).ibufAt i = Config.powerUpByte (State.resetWith c).draw .ibuf i ∧
      (State.resetWith c).obufAt i = Config.powerUpByte (State.resetWith c).draw .obuf i ∧
      (State.resetWith c).accAt i = Config.powerUpByte (State.resetWith c).draw .acc i :=
    ⟨Memory.read_nil _ _ i, Memory.read_nil _ _ i, Memory.read_nil _ _ i⟩
  exact ⟨rfl, rfl, rfl, rfl, rfl, rfl, rfl, rfl, rfl, rfl, rfl, rfl, hbufs, statusReg_resetWith c,
    resultReg_resetWith c, sdecSizeReg_resetWith c, sdecStateReg_resetWith c, dfrPosReg_resetWith c⟩

end Sys2Proof.Machine
end

section
/-! PROOFS. Host writes (O40; spec/20_memory.md R50, R53, spec/10_state.md R29). -/

namespace Sys2Proof.Machine

/-- A step that finds a host write, out of reset, is that write; the carried value does not depend on what the host does
next. -/
theorem step_of_write {s : State} {n : Nat} {a : Addr} {v : HostValue} {rest : List HostEvent}
    (hr : s.inReset = false) (hh : s.host = .write n a v :: rest) :
    step s = hostWrite n a (s.hostValue v) (s.setHost rest) := by
  have hv : (s.setHost rest).hostValue v = s.hostValue v := by
    cases v with
    | lit w => rfl
    | readBack k => rfl
  simp [step, hostStep, hh, perform, hr, hv]

theorem eq_cmdAddr_iff (a : Addr) : a = cmdAddr ↔ a.toNat = 0x300 := BitVec.toNat_inj.symm

/-- One IBUF byte written: it reads as written, every other byte as before. -/
theorem ibufAt_setIbuf_set (s : State) (j i : Nat) (b : Byte) :
    (s.setIbuf (s.ibuf.set j b)).ibufAt i = if i = j then b else s.ibufAt i :=
  Memory.read_set s.ibuf s.draw .ibuf j i b

/-- Settles O40: by the three cases of a host write, of which each clause leaves one. -/
theorem hostWritesReachOnlyIbuf : Obligations.HostWritesReachOnlyIbuf := by
  intro s n a v rest hr hh
  rw [step_of_write hr hh]
  have hcases := hostWrite_cases n a (s.hostValue v) (s.setHost rest)
  rw [eq_cmdAddr_iff] at hcases
  rcases hcases with ⟨hn, ha, _⟩ | ⟨hn, ha, he⟩ | ⟨hcmd, hbyte, he⟩
  · exact ⟨fun h1 => by omega, fun _ hno => absurd ⟨hn, ha⟩ hno⟩
  · refine ⟨fun _ _ => ⟨_, he, rfl, fun i => ibufAt_setIbuf_set (s.setHost rest) a.toNat i _⟩, fun hno => ?_⟩
    exact absurd ⟨hn, by omega⟩ hno
  · exact ⟨fun hn ha => absurd ⟨hn, by omega⟩ hbyte, fun _ _ => he⟩

end Sys2Proof.Machine
end

section
/-! PROOFS. The DOUT log (O37; spec/20_memory.md R62): only a DFR command appends to it, and only a release of reset
empties it. -/

namespace Sys2Proof.Machine

/-- DOUT of `t` is DOUT of `s` with records appended, none longer than the payload of the largest frame. -/
def DoutGrows (s t : State) : Prop :=
  ∃ new : List (List Byte), t.dout = s.dout ++ new ∧ ∀ d ∈ new, d.length ≤ s.cfg.N - 4

theorem DoutGrows.of_eq {s t : State} (h : t.dout = s.dout) : DoutGrows s t :=
  ⟨[], by rw [h, List.append_nil], by simp⟩

theorem execDfr_doutGrows {s t : State} {b : Byte} (h : execDfr b s = .next t) : DoutGrows s t := by
  obtain ⟨_, _, new, _, hlen, hloop⟩ := dfrLoop_frame (dfrFuel s.cfg) (s.intake b) 0
  cases h
  refine ⟨new, ?_, fun d hd => Nat.le_sub_of_add_le (hlen d hd)⟩
  rw [hloop]
  rfl

theorem exec_doutGrows {i : Instr} {s t : State} (h : exec i s = .next t) : DoutGrows s t := by
  by_cases hi : ∃ b, i = .dfr b
  · obtain ⟨b, rfl⟩ := hi
    exact execDfr_doutGrows h
  · obtain ⟨_, _, _, hdfr⟩ := commandsWriteOnlyTheirState i s t h
    obtain ⟨_, hdout, _⟩ := hdfr fun b hb => hi ⟨b, hb⟩
    exact .of_eq hdout

theorem runWord_doutGrows {w : Word} {s t : State} (h : runWord w s = .next t) : DoutGrows s t := by
  unfold runWord at h
  split at h
  · exact exec_doutGrows h
  · cases h
    exact .of_eq rfl

theorem hostWrite_doutGrows {n : Nat} {a : Addr} {v : Word} {s t : State} (h : hostWrite n a v s = .next t) :
    DoutGrows s t := by
  rcases hostWrite_cases n a v s with ⟨_, _, he⟩ | ⟨_, _, he⟩ | ⟨_, _, he⟩ <;> rw [he] at h
  · exact runWord_doutGrows h
  · cases h
    exact .of_eq rfl
  · cases h
    exact .of_eq rfl

/-- Settles O37: by the cases of the step, of which the premise excludes the release of reset; a command word that is no
DFR leaves DOUT as it is by the frame of the commands, and a DFR command appends by the frame of its loop. -/
theorem doutOnlyGrows : Obligations.DoutOnlyGrows := by
  intro s t h hno
  rcases step_next_cases h with ⟨_, rfl⟩ | ⟨_, _, rfl⟩ | ⟨rest, hh, hr, _⟩ | ⟨_, _, _, rfl⟩ | ⟨_, _, _, _, _, rfl⟩ |
    ⟨_, _, _, rest, _, _, hw⟩
  · exact DoutGrows.of_eq rfl
  · exact DoutGrows.of_eq rfl
  · exact absurd ⟨hr, rest, hh⟩ hno
  · exact DoutGrows.of_eq rfl
  · exact DoutGrows.of_eq rfl
  · have hgrows : DoutGrows (s.setHost rest) t := hostWrite_doutGrows hw
    exact hgrows

end Sys2Proof.Machine
end

section
/-! PROOFS. Steps of two blocks of a system (O49; spec/20_memory.md R63, spec/60_exceptions.md R200): a step of block `k`
reads and replaces entry `k` of the system alone, so it commutes with any replacement of another entry. -/

namespace Sys2Proof.Machine

theorem stepInstance_of_none {k : Nat} {sys : List State} (hk : sys[k]? = none) :
    stepInstance k sys = .next sys := by
  simp [stepInstance, hk]

theorem stepInstance_of_step {k : Nat} {sys : List State} {s t : State} (hk : sys[k]? = some s)
    (ht : step s = .next t) : stepInstance k sys = .next (sys.set k t) := by
  simp [stepInstance, hk, ht]

theorem getElem?_stepInstance_ne {j k : Nat} {sys sys' : List State} (h : stepInstance k sys = .next sys')
    (hne : j ≠ k) : sys'[j]? = sys[j]? := by
  rcases stepInstance_next_cases h with ⟨_, rfl⟩ | ⟨_, t, _, _, rfl⟩
  · rfl
  · exact List.getElem?_set_ne hne.symm

/-- A step of block `k` takes place in the same way, whatever state another block `j` is given. -/
theorem stepInstance_set_ne {j k : Nat} {sys sys' : List State} (h : stepInstance k sys = .next sys')
    (hne : j ≠ k) (u : State) : stepInstance k (sys.set j u) = .next (sys'.set j u) := by
  have hget : (sys.set j u)[k]? = sys[k]? := List.getElem?_set_ne hne
  rcases stepInstance_next_cases h with ⟨hk, rfl⟩ | ⟨_, t, hk, ht, rfl⟩
  · exact stepInstance_of_none (hget.trans hk)
  · rw [stepInstance_of_step (hget.trans hk) ht, List.set_comm u t hne]

/-- The system both orders end in is the one after block `k`'s step, with block `j`'s entry replaced. -/
theorem stepInstance_comm {j k : Nat} {sys sys1 sys2 : List State} (hne : j ≠ k)
    (hj : stepInstance j sys = .next sys1) (hk : stepInstance k sys = .next sys2) :
    ∃ sys', stepInstance k sys1 = .next sys' ∧ stepInstance j sys2 = .next sys' := by
  have hget : sys2[j]? = sys[j]? := getElem?_stepInstance_ne hk hne
  rcases stepInstance_next_cases hj with ⟨hnone, rfl⟩ | ⟨_, t, hsome, ht, rfl⟩
  · exact ⟨sys2, hk, stepInstance_of_none (hget.trans hnone)⟩
  · exact ⟨sys2.set j t, stepInstance_set_ne hk hne t, stepInstance_of_step (hget.trans hsome) ht⟩

/-- Settles O49: both halves by what a step of one block can do to the list of blocks. -/
theorem instancesDoNotInteract : Obligations.InstancesDoNotInteract :=
  ⟨fun _ _ _ h _ hne => getElem?_stepInstance_ne h hne, fun _ _ _ _ _ hne hj hk => stepInstance_comm hne hj hk⟩

end Sys2Proof.Machine
end

section
/-! PROOFS. Host reads (O38, O39; spec/20_memory.md R50, R53, R55, spec/44_system.md R182): the value read depends on none
of the host's own fields, and which value it is follows from the width and the address range. -/

namespace Sys2Proof.Machine

/-! ## A read has no side effect -/

@[simp] theorem hostRead_setHost (s : State) (rest : List HostEvent) (n : Nat) (a : Addr) :
    (s.setHost rest).hostRead n a = s.hostRead n a := rfl

@[simp] theorem hostRead_logRead (s : State) (v : Word) (n : Nat) (a : Addr) :
    (s.logRead v).hostRead n a = s.hostRead n a := rfl

/-- A step that finds a host read, out of reset, logs the value read. -/
theorem step_of_read {s : State} {n : Nat} {a : Addr} {rest : List HostEvent}
    (hr : s.inReset = false) (hh : s.host = .read n a :: rest) :
    step s = .next ((s.setHost rest).logRead (s.hostRead n a)) := by
  simp [step, hostStep, hh, perform, hr]

/-- Settles O38: the step is `step_of_read`, and neither field it writes is one a read looks at. -/
theorem hostReadsHaveNoSideEffect : Obligations.HostReadsHaveNoSideEffect := by
  intro s n a rest hr hh
  have hstep := step_of_read hr hh
  refine ⟨hstep, fun t ht => ?_⟩
  rw [hstep] at ht
  cases ht
  rw [hostRead_logRead, hostRead_setHost]

/-! ## The address map of a byte read (R50) -/

theorem byteRead_ibuf (s : State) {a : Nat} (h : a < 0x100) : s.byteRead a = s.ibufAt a := if_pos h

theorem byteRead_obuf (s : State) {a : Nat} (hlo : 0x100 ≤ a) (hhi : a < 0x200) :
    s.byteRead a = s.obufAt (a - 0x100) := by
  rw [State.byteRead, if_neg (by omega), if_pos hhi]

theorem byteRead_acc (s : State) {a : Nat} (hlo : 0x200 ≤ a) (hhi : a < 0x280) :
    s.byteRead a = if a - 0x200 < s.cfg.N then s.accAt (a - 0x200) else 0 := by
  rw [State.byteRead, if_neg (by omega), if_neg (by omega), if_pos hhi]

theorem byteRead_reserved (s : State) {a : Nat} (h : 0x280 ≤ a) : s.byteRead a = 0 := by
  rw [State.byteRead, if_neg (by omega), if_neg (by omega), if_neg (by omega)]

/-! ## The three widths (R53) -/

theorem hostRead_byte (s : State) (a : Addr) : s.hostRead 1 a = (s.byteRead a.toNat).setWidth 32 := rfl

theorem hostRead_word (s : State) (a : Addr) : s.hostRead 4 a = s.wordRead a.toNat := rfl

theorem hostRead_other (s : State) {n : Nat} (a : Addr) (h1 : n ≠ 1) (h4 : n ≠ 4) : s.hostRead n a = 0 := by
  rw [State.hostRead, if_neg h1, if_neg h4]

/-- Settles O39: by the width first, then by the range the address lies in. -/
theorem hostReadFollowsAddressMap : Obligations.HostReadFollowsAddressMap := by
  intro s a
  simp only [hostRead_byte, hostRead_word]
  refine ⟨fun hhi => ?ibuf, fun hlo hhi => ?obuf, fun hlo hhi hN => ?backed, fun hlo hhi hN => ?unbacked,
    fun hlo => ?reserved, fun hlo hhi hal => ?register, fun hno => ?noRegister, fun n h1 h4 => hostRead_other s a h1 h4⟩
  case ibuf => rw [byteRead_ibuf s (by omega)]
  case obuf => rw [byteRead_obuf s hlo (by omega)]
  case backed => rw [byteRead_acc s hlo (by omega), if_pos hN]
  case unbacked =>
    rw [byteRead_acc s hlo (by omega), if_neg (by omega)]
    rfl
  case reserved =>
    rw [byteRead_reserved s hlo]
    rfl
  case register => exact if_pos ⟨hlo, by omega, hal⟩
  case noRegister => exact if_neg (by omega)

end Sys2Proof.Machine
end

section
/-! PROOFS. The command word (O1 to O5; spec/30_encoding.md R80 to R86). The one fact behind them: a word decodes to a
command exactly when, restricted to the fields the command reads, it is the command's own word. -/

namespace Sys2Proof

/-! ## One equation per row of the table (R82) -/

theorem decode_packWord_nop (a b c : Byte) : decode (packWord 0x00 a b c) = .ok .nop := by
  simp [decode, rsvField_packWord, opField_packWord]

theorem decode_packWord_chk (a b c : Byte) : decode (packWord 0x10 a b c) = .ok (.chk a b c) := by
  simp [decode, rsvField_packWord, opField_packWord, aField_packWord, bField_packWord, cField_packWord]

theorem decode_packWord_senc (a b c : Byte) : decode (packWord 0x20 a b c) = .ok (.senc b c) := by
  simp [decode, rsvField_packWord, opField_packWord, bField_packWord, cField_packWord]

theorem decode_packWord_sdec (a b c : Byte) : decode (packWord 0x30 a b c) = .ok (.sdec a) := by
  simp [decode, rsvField_packWord, opField_packWord, aField_packWord]

theorem decode_packWord_fenc (a b c : Byte) : decode (packWord 0x40 a b c) = .ok (.fenc b c) := by
  simp [decode, rsvField_packWord, opField_packWord, bField_packWord, cField_packWord]

theorem decode_packWord_dfr (a b c : Byte) : decode (packWord 0x50 a b c) = .ok (.dfr a) := by
  simp [decode, rsvField_packWord, opField_packWord, aField_packWord]

/-! ## The illegal words (R83) -/

theorem decode_of_rsvField_ne_zero {w : Word} (h : rsvField w ≠ 0) : decode w = .error .reservedField := if_pos h

theorem exists_decode_error_of_six_le_opField {w : Word} (h : 6 ≤ (opField w).toNat) : ∃ r, decode w = .error r := by
  unfold decode
  split
  · exact ⟨_, rfl⟩
  · split
    case h_7 => exact ⟨_, rfl⟩
    all_goals omega

/-! ## Decoding is agreement with the command's word under its mask -/

theorem byte_and_ff (x : Byte) : x &&& 0xFF = x := BitVec.and_allOnes

theorem byte_and_zero (x : Byte) : x &&& 0x00 = 0x00 := BitVec.and_zero

/-- Every word is packed from four bytes, so what holds of packed words holds of words. -/
theorem exists_packWord (w : Word) : ∃ top a b c, w = packWord top a b c :=
  ⟨_, _, _, _, (packWord_fields w).symm⟩

/-- Every legal word is one row's opcode over its operand bytes, ignored ones included. -/
theorem decode_ok_cases {w : Word} {i : Instr} (h : decode w = .ok i) : ∃ a b c,
    (w = packWord 0x00 a b c ∧ i = .nop) ∨ (w = packWord 0x10 a b c ∧ i = .chk a b c) ∨
    (w = packWord 0x20 a b c ∧ i = .senc b c) ∨ (w = packWord 0x30 a b c ∧ i = .sdec a) ∨
    (w = packWord 0x40 a b c ∧ i = .fenc b c) ∨ (w = packWord 0x50 a b c ∧ i = .dfr a) := by
  have hw := packWord_fields w
  unfold decode at h
  generalize aField w = a, bField w = b, cField w = c at h hw
  refine ⟨a, b, c, ?_⟩
  split at h
  · cases h
  next hr =>
    rw [not_not.1 hr] at hw
    split at h <;> cases h
    all_goals
      rename_i hnum
      have hop := congrArg (BitVec.ofNat 4) hnum
      rw [BitVec.ofNat_toNat, BitVec.setWidth_eq] at hop
      rw [hop] at hw
      simp [← hw]

/-- The idea of the family: the decoder reads the fields of the command's row and no other bit. -/
theorem decode_eq_ok_iff (w : Word) (i : Instr) : decode w = .ok i ↔ w &&& operandMask i = encode i := by
  constructor
  · intro h
    obtain ⟨a, b, c, hrow⟩ := decode_ok_cases h
    rcases hrow with ⟨rfl, rfl⟩ | ⟨rfl, rfl⟩ | ⟨rfl, rfl⟩ | ⟨rfl, rfl⟩ | ⟨rfl, rfl⟩ | ⟨rfl, rfl⟩ <;>
      simp only [operandMask_packWord, encode, packWord_and, byte_and_ff, byte_and_zero]
  · obtain ⟨top, a, b, c, rfl⟩ := exists_packWord w
    rw [operandMask_packWord]
    cases i <;> simp only [encode, packWord_and, packWord_inj, byte_and_ff]
    case nop =>
      rintro ⟨rfl, -, -, -⟩
      exact decode_packWord_nop a b c
    case chk =>
      rintro ⟨rfl, rfl, rfl, rfl⟩
      exact decode_packWord_chk a b c
    case senc =>
      rintro ⟨rfl, -, rfl, rfl⟩
      exact decode_packWord_senc a b c
    case sdec =>
      rintro ⟨rfl, rfl, -, -⟩
      exact decode_packWord_sdec a b c
    case fenc =>
      rintro ⟨rfl, -, rfl, rfl⟩
      exact decode_packWord_fenc a b c
    case dfr =>
      rintro ⟨rfl, rfl, -, -⟩
      exact decode_packWord_dfr a b c

/-- The match of a row under the mask of R85 compares the top byte alone. -/
theorem packWord_match_iff (top a b c row : Byte) :
    packWord top a b c &&& 0xFF000000#32 = packWord row 0x00 0x00 0x00 ↔ top = row := by
  change packWord top a b c &&& packWord 0xFF 0x00 0x00 0x00 = _ ↔ _
  simp only [packWord_and, packWord_inj, byte_and_ff, byte_and_zero, and_true]

/-! ## Running a word -/

theorem decode_encode (i : Instr) : decode (encode i) = .ok i := by
  rw [decode_eq_ok_iff]
  cases i with
  | nop => exact Laws.CanonicalWord.nop.2
  | chk seed len off => exact (Laws.CanonicalWord.chk seed len off).2
  | senc len cap => exact (Laws.CanonicalWord.senc len cap).2
  | sdec byte => exact (Laws.CanonicalWord.sdec byte).2
  | fenc len cap => exact (Laws.CanonicalWord.fenc len cap).2
  | dfr byte => exact (Laws.CanonicalWord.dfr byte).2

theorem Machine.runWord_of_decode {w : Word} {i : Instr} (h : decode w = .ok i) (s : Machine.State) :
    Machine.runWord w s = Machine.exec i s := by
  simp only [Machine.runWord, h]

/-! ## The statements -/

/-- Settles O1: the word of a command has no bit outside the fields the command reads. -/
theorem decodeInvertsEncode : Obligations.DecodeInvertsEncode := fun i _ => decode_encode i

/-- Settles O2: one direction of `decode_eq_ok_iff`. -/
theorem encodeRestoresReadFields : Obligations.EncodeRestoresReadFields :=
  fun w i h => ((decode_eq_ok_iff w i).1 h).symm

/-- Settles O3: under its own mask each row compares the operands with themselves, which leaves the top byte. -/
theorem decodeFollowsMatchAndMask : Obligations.DecodeFollowsMatchAndMask := by
  intro w
  refine ⟨fun h => ⟨_, decode_of_rsvField_ne_zero h⟩, exists_decode_error_of_six_le_opField, ?_⟩
  simp only [← aField.eq_def, ← bField.eq_def, ← cField.eq_def]
  obtain ⟨top, a, b, c, rfl⟩ := exists_packWord w
  simp only [aField_packWord, bField_packWord, cField_packWord, decode_eq_ok_iff, operandMask_packWord, encode,
    packWord_and, packWord_inj, byte_and_ff, byte_and_zero, and_true]
  have hmatch := packWord_match_iff top a b c
  exact ⟨hmatch 0x00, hmatch 0x10, hmatch 0x20, hmatch 0x30, hmatch 0x40, hmatch 0x50⟩

/-- Settles O4: `decode_eq_ok_iff` looks at a word only under the command's mask. -/
theorem ignoredFieldsChangeNothing : Obligations.IgnoredFieldsChangeNothing := by
  refine ⟨fun w w' i s h hmask => ?_, fun _ => exists_decode_error_of_six_le_opField⟩
  have h' : decode w' = .ok i := by
    rw [decode_eq_ok_iff] at h ⊢
    exact hmask.symm.trans h
  exact ⟨h', by rw [Machine.runWord_of_decode h', Machine.runWord_of_decode h]⟩

/-- Settles O5: each word is packed from the bytes its digits show. -/
theorem wordsWrittenOutDecode : Obligations.WordsWrittenOutDecode :=
  ⟨decode_packWord_nop 0 0 0, decode_packWord_chk 0x52 6 0, decode_packWord_senc 0 4 10,
    decode_packWord_sdec 0xDB 0 0, decode_packWord_fenc 0 3 7, decode_packWord_dfr 0x55 0 0, rfl, rfl⟩

end Sys2Proof
end

section
/-! PROOFS. A stuffed message holds END at its two ends alone (O16; spec/30_encoding.md R75, R77, spec/41_stuffing.md
R111). -/

namespace Sys2Proof.Machine

/-- The wire bytes of a data byte hold no END: an END is sent as ESC and its substitute, and R9 keeps all of these apart. -/
theorem END_notMem_escByte {c : Params} (hwf : c.wf = true) (x : Byte) : c.END ∉ escByte c x := by
  unfold escByte
  split
  · simp [END_ne_ESC hwf, END_ne_ESC_END hwf]
  · split
    · simp [END_ne_ESC hwf, END_ne_ESC_ESC hwf]
    · simpa using Ne.symm ‹x ≠ c.END›

/-- Settles O16: the body is the escaped bytes one after the other, and none of them brings an END. -/
theorem stuffedBodyHoldsNoEnd : Obligations.StuffedBodyHoldsNoEnd := by
  intro c b hwf
  refine ⟨b.flatMap (escByte c), rfl, fun hmem => ?_⟩
  obtain ⟨x, _, hx⟩ := List.mem_flatMap.1 hmem
  exact END_notMem_escByte hwf x hx

end Sys2Proof.Machine
end

section
/-! PROOFS. The assembler (O45, O46; spec/30_encoding.md R86, R87): a line assembles exactly when its operands pass their
checks, then to its expansion, and a program is its lines one after the other. -/

namespace Sys2Proof

@[simp] theorem fits8_iff (n : Nat) : fits8 n = true ↔ n < 256 := decide_eq_true_iff

@[simp] theorem fitsAddr_iff (n : Nat) : fitsAddr n = true ↔ n < 4096 := decide_eq_true_iff

@[simp] theorem fits32_iff (n : Nat) : fits32 n = true ↔ n < 4294967296 := decide_eq_true_iff

namespace Machine

/-! ## Lines and programs -/

theorem assembleLine_isSome_iff (l : AsmLine) : (assembleLine l).isSome = true ↔ l.wf = true := by
  simp [assembleLine]

theorem assembleLine_eq_some_iff (l : AsmLine) (es : List HostEvent) :
    assembleLine l = some es ↔ l.wf = true ∧ es = AsmLine.expand l := by
  unfold assembleLine
  split
  · next h => simp only [h, true_and, Option.some.injEq, eq_comm]
  · next h => simp [h]

/-- Two lines with the same checks and the same accesses are the same to an assembler. -/
theorem assembleLine_congr {l l' : AsmLine} (hwf : l.wf = l'.wf) (hexpand : AsmLine.expand l = AsmLine.expand l') :
    assembleLine l = assembleLine l' := by
  rw [assembleLine, hwf, hexpand, assembleLine]

/-- A program is refused exactly when one of its lines is. -/
theorem assemble_eq (ls : List AsmLine) :
    assemble ls = if ls.all AsmLine.wf then some (ls.flatMap AsmLine.expand) else none := by
  induction ls with
  | nil => rfl
  | cons l ls ih =>
    rw [assemble, ih, assembleLine, List.all_cons, List.flatMap_cons]
    cases l.wf with
    | true =>
      cases ls.all AsmLine.wf with
      | true => rfl
      | false => rfl
    | false => rfl

/-- One command line per byte: each is checked as a byte and each is one access. -/
theorem assemble_map_bytes {line : Nat → AsmLine} {event : Nat → HostEvent} (bs : List Nat)
    (hwf : ∀ b, (line b).wf = fits8 b) (hexpand : ∀ b, AsmLine.expand (line b) = [event b]) :
    assemble (bs.map line) = if bs.all fits8 then some (bs.map event) else none := by
  simp only [assemble_eq, List.all_map, Function.comp_def, hwf, List.flatMap_map, hexpand]
  rw [List.map_eq_flatMap]

/-! ## LOAD (R87) -/

/-- One byte or more lies in the address space exactly when each byte does: the last address bounds the others. -/
theorem wf_load {a : Nat} {bs : List Nat} (hne : bs ≠ []) :
    AsmLine.wf (.load a bs) = (bs.mapIdx fun i b => AsmLine.wr8 (a + i) b).all AsmLine.wf := by
  have hpos := List.length_pos_iff.2 hne
  have hline (i b : Nat) : (AsmLine.wr8 (a + i) b).wf = true ↔ a + i < 4096 ∧ b < 256 := by simp [AsmLine.wf]
  have hload : AsmLine.wf (.load a bs) = true ↔ (a < 4096 ∧ a + bs.length ≤ 4096) ∧ ∀ b ∈ bs, b < 256 := by
    simp [AsmLine.wf]
  rw [Bool.eq_iff_iff, hload, List.all_eq_true]
  constructor
  · rintro ⟨⟨_, hend⟩, hfits⟩ l hl
    obtain ⟨i, hi, rfl⟩ := List.mem_mapIdx.1 hl
    exact (hline i _).2 ⟨by omega, hfits _ (List.getElem_mem hi)⟩
  · intro hlines
    have hbyte (i : Nat) (hi : i < bs.length) : a + i < 4096 ∧ bs[i] < 256 :=
      (hline i _).1 (hlines _ (List.mem_mapIdx.2 ⟨i, hi, rfl⟩))
    obtain ⟨hlast, _⟩ := hbyte (bs.length - 1) (by omega)
    refine ⟨by omega, fun b hb => ?_⟩
    obtain ⟨i, hi, rfl⟩ := List.mem_iff_getElem.1 hb
    exact (hbyte i hi).2

theorem expand_load (a : Nat) (bs : List Nat) :
    AsmLine.expand (.load a bs) = (bs.mapIdx fun i b => AsmLine.wr8 (a + i) b).flatMap AsmLine.expand := by
  rw [List.mapIdx_eq_zipIdx_map, List.flatMap_map]
  exact List.map_eq_flatMap

/-- Settles O46: CHK0, FENCM and SENCM pass the checks and have the expansion of the commands they stand for, the other
three those of their lines, byte by byte. -/
theorem pseudoInstructionsExpand : Obligations.PseudoInstructionsExpand := by
  refine ⟨fun len off => assembleLine_congr rfl rfl, fun len => ?_, fun a bs hne => ?_, fun bs => ?_⟩
  · have hcap : fits8 len = (fits8 len && fits8 0xFF) := (Bool.and_true _).symm
    exact ⟨assembleLine_congr hcap rfl, assembleLine_congr hcap rfl⟩
  · rw [assemble_eq, ← wf_load hne, ← expand_load, assembleLine]
  · exact ⟨(assemble_map_bytes bs (fun _ => rfl) fun _ => rfl).symm,
      (assemble_map_bytes bs (fun _ => rfl) fun _ => rfl).symm⟩

/-! ## The word of a command line (R86) -/

theorem toNat_ofNat_of_lt {w n : Nat} (h : n < 2 ^ w) : (BitVec.ofNat w n).toNat = n := by
  rw [BitVec.toNat_ofNat, Nat.mod_eq_of_lt h]

/-- A word packed from numbers that fit a byte, as a number: each byte weighted by the power of two of its lowest bit. -/
theorem packWord_ofNat {op a b c n : Nat} (hop : op < 256) (ha : a < 256) (hb : b < 256) (hc : c < 256)
    (hn : n = op * 16777216 + a * 65536 + b * 256 + c) :
    packWord (BitVec.ofNat 8 op) (BitVec.ofNat 8 a) (BitVec.ofNat 8 b) (BitVec.ofNat 8 c) = BitVec.ofNat 32 n := by
  apply BitVec.eq_of_toNat_eq
  simp only [packWord, toNat_append_eq_add]
  rw [toNat_ofNat_of_lt hop, toNat_ofNat_of_lt ha, toNat_ofNat_of_lt hb, toNat_ofNat_of_lt hc,
    toNat_ofNat_of_lt (by omega)]
  omega

/-- The expansion of a command line: the write to CMD of the number its command's word is. -/
theorem cmdEvent_of_word {i : Instr} {n : Nat} (hi : encode i = BitVec.ofNat 32 n) :
    [cmdEvent i] = [.write 4 0x300 (.lit (BitVec.ofNat 32 n))] := by
  rw [cmdEvent, hi]
  rfl

theorem step_of_cmdEvent {i : Instr} {s : State} {rest : List HostEvent} (hr : s.inReset = false)
    (hh : s.host = cmdEvent i :: rest) : step s = exec i (s.setHost rest) := by
  rw [step_of_write hr hh]
  exact runWord_of_decode (decode_encode i) _

/-- Settles O45: the first clauses are the host lines, then a step that meets a command's write, then the command lines:
their checks, and the word they write. -/
theorem assembledCommandRuns : Obligations.AssembledCommandRuns := by
  simp only [Obligations.AssembledCommandRuns, assembleLine_isSome_iff, assembleLine_eq_some_iff, AsmLine.wf,
    Bool.and_eq_true, fits8_iff, fitsAddr_iff, fits32_iff, and_self, iff_self, and_assoc, implies_true, true_and]
  refine ⟨?wr8, ?wr32, ?rd8, ?rd32, fun i s rest hr hh => step_of_cmdEvent hr hh, ?nop, ?chk, ?senc, ?sdec, ?fenc,
    ?dfr⟩
  case wr8 =>
    rintro a v _ ⟨ha, hv, rfl⟩
    exact ⟨_, _, rfl, toNat_ofNat_of_lt ha, toNat_ofNat_of_lt (by omega)⟩
  case wr32 =>
    rintro a v _ ⟨ha, hv, rfl⟩
    exact ⟨_, _, rfl, toNat_ofNat_of_lt ha, toNat_ofNat_of_lt hv⟩
  case rd8 =>
    rintro a _ ⟨ha, rfl⟩
    exact ⟨_, rfl, toNat_ofNat_of_lt ha⟩
  case rd32 =>
    rintro a _ ⟨ha, rfl⟩
    exact ⟨_, rfl, toNat_ofNat_of_lt ha⟩
  case nop => rfl
  case chk =>
    rintro a b c _ ⟨ha, hb, hc, rfl⟩
    exact cmdEvent_of_word (packWord_ofNat (op := 0x10) (by decide) ha hb hc (by omega))
  case senc =>
    rintro a b _ ⟨ha, hb, rfl⟩
    exact cmdEvent_of_word (packWord_ofNat (op := 0x20) (a := 0) (by decide) (by decide) ha hb (by omega))
  case sdec =>
    rintro a _ ⟨ha, rfl⟩
    exact cmdEvent_of_word
      (packWord_ofNat (op := 0x30) (b := 0) (c := 0) (by decide) ha (by decide) (by decide) (by omega))
  case fenc =>
    rintro a b _ ⟨ha, hb, rfl⟩
    exact cmdEvent_of_word (packWord_ofNat (op := 0x40) (a := 0) (by decide) (by decide) ha hb (by omega))
  case dfr =>
    rintro a _ ⟨ha, rfl⟩
    exact cmdEvent_of_word
      (packWord_ofNat (op := 0x50) (b := 0) (c := 0) (by decide) ha (by decide) (by decide) (by omega))

end Machine

end Sys2Proof
end

section
/-! PROOFS. COPYOI (O47; spec/30_encoding.md R87, spec/20_memory.md R50): each read of an OBUF byte and the write of the
value read to IBUF copy one byte, and the pairs, taken in order, do not meet. -/

namespace Sys2Proof.Machine

theorem run_succ_of_step {M : Host.Core} {s t : M.State} (h : M.step s = .next t) (k : Nat) :
    M.run (k + 1) s = M.run k t := by
  simp only [Host.Core.run, h]

/-! ## One byte -/

/-- The two accesses that copy byte `i`. -/
def copyEvents (i : Nat) : List HostEvent :=
  [.read 1 (BitVec.ofNat 12 (0x100 + i)), .write 1 (BitVec.ofNat 12 i) (.readBack 0)]

theorem expand_copyoi (len : Nat) : AsmLine.expand (.copyoi len) = (List.range' 0 len).flatMap copyEvents := by
  rw [← List.range_eq_range']
  rfl

/-- `t` is `s` with bytes `[i, j)` of IBUF taken from OBUF and the host's sequence at `rest`; the host has read on. -/
def Copied (i j : Nat) (rest : List HostEvent) (s t : State) : Prop :=
  (∀ k, t.ibufAt k = if i ≤ k ∧ k < j then s.obufAt k else s.ibufAt k) ∧
    t = { s with ibuf := t.ibuf, host := rest, readLog := t.readLog }

theorem Copied.refl {s : State} {i : Nat} {rest : List HostEvent} (hh : s.host = rest) : Copied i i rest s s := by
  subst hh
  exact ⟨fun k => (if_neg (by omega)).symm, rfl⟩

theorem Copied.host_eq {i j : Nat} {rest : List HostEvent} {s t : State} (h : Copied i j rest s t) : t.host = rest :=
  (congrArg State.host h.2 :)

theorem Copied.inReset_eq {i j : Nat} {rest : List HostEvent} {s t : State} (h : Copied i j rest s t) :
    t.inReset = s.inReset :=
  (congrArg State.inReset h.2 :)

theorem Copied.trans {i j l : Nat} {es rest : List HostEvent} {s t u : State} (hij : i ≤ j) (hjl : j ≤ l)
    (h1 : Copied i j es s t) (h2 : Copied j l rest t u) : Copied i l rest s u := by
  obtain ⟨hi1, he1⟩ := h1
  obtain ⟨hi2, he2⟩ := h2
  have hobuf (k : Nat) : t.obufAt k = s.obufAt k := by rw [he1]; rfl
  refine ⟨fun k => ?_, ?_⟩
  · rw [hi2, hi1, hobuf]
    grind
  · rw [he2, he1]

theorem hostRead_obuf (s : State) {i : Nat} (hi : i < 256) :
    s.hostRead 1 (BitVec.ofNat 12 (0x100 + i)) = (s.obufAt i).setWidth 32 := by
  rw [hostRead_byte, toNat_ofNat_of_lt (by omega), byteRead_obuf s (by omega) (by omega), Nat.add_sub_cancel_left]

theorem hostWrite_ibuf (s : State) {i : Nat} (hi : i < 256) (v : Word) :
    hostWrite 1 (BitVec.ofNat 12 i) v s = .next (s.setIbuf (s.ibuf.set i (v.setWidth 8))) := by
  have ha : (BitVec.ofNat 12 i).toNat = i := toNat_ofNat_of_lt (by omega)
  simp [hostWrite, ha, hi]

/-- The value a write names as the latest read is the one just read (log entry 6). -/
@[simp] theorem hostValue_readBack_zero_logRead (s : State) (v : Word) :
    (s.logRead v).hostValue (.readBack 0) = v := by
  simp [State.hostValue]

/-- One pair of accesses copies its byte: the byte read is the one written. -/
theorem run_copyEvents {s : State} {i : Nat} {rest : List HostEvent} (hi : i < 256) (hr : s.inReset = false)
    (hh : s.host = copyEvents i ++ rest) :
    ∃ t, Copied i (i + 1) rest s t ∧ ∀ k, Sys2Proof.core.run (k + 2) s = Sys2Proof.core.run k t := by
  have hread := step_of_read hr (hh : s.host = .read 1 _ :: .write 1 _ (.readBack 0) :: rest)
  rw [hostRead_obuf s hi] at hread
  have hwrite := step_of_write (rest := rest) (s :=
    (s.setHost (.write 1 (BitVec.ofNat 12 i) (.readBack 0) :: rest)).logRead ((s.obufAt i).setWidth 32)) hr rfl
  rw [hostWrite_ibuf _ hi, hostValue_readBack_zero_logRead,
    BitVec.setWidth_setWidth_of_le _ (by decide), BitVec.setWidth_eq] at hwrite
  refine ⟨_, ⟨fun k => (ibufAt_setIbuf_set _ i k _).trans ?_, rfl⟩,
    fun k => (run_succ_of_step hread (k + 1)).trans (run_succ_of_step hwrite k)⟩
  by_cases hk : k = i
  · subst hk
    rw [if_pos rfl, if_pos (by omega)]
  · rw [if_neg hk, if_neg (by omega)]
    rfl

/-! ## The whole range -/

/-- By induction on the number of pairs: each pair leaves OBUF as it is, so the pairs after it copy the bytes of `s`. -/
theorem run_copyRange (n : Nat) {s : State} {i : Nat} {rest : List HostEvent} (hn : i + n ≤ 256)
    (hr : s.inReset = false) (hh : s.host = (List.range' i n).flatMap copyEvents ++ rest) :
    ∃ t, Sys2Proof.core.run (2 * n) s = .next t ∧ Copied i (i + n) rest s t := by
  induction n generalizing s i with
  | zero => exact ⟨s, rfl, Copied.refl hh⟩
  | succ n ih =>
    rw [List.range'_succ, List.flatMap_cons, List.append_assoc] at hh
    obtain ⟨u, hu, hrun⟩ := run_copyEvents (by omega) hr hh
    obtain ⟨t, ht, hcopied⟩ := ih (i := i + 1) (by omega) (hu.inReset_eq.trans hr) hu.host_eq
    refine ⟨t, (hrun (2 * n)).trans ht, ?_⟩
    rw [← Nat.add_assoc, Nat.add_right_comm]
    exact hu.trans (by omega) (by omega) hcopied

/-- Settles O47: the checks bound `len` by 256, so both ranges of addresses lie in their buffers, and the pairs of COPYOI
copy the range from 0. -/
theorem copyoiCopiesObufToIbuf : Obligations.CopyoiCopiesObufToIbuf := by
  intro s len es rest hes hr hh
  obtain ⟨hlen, rfl⟩ := (assembleLine_eq_some_iff _ _).1 hes
  have hlen : len < 256 := (fits8_iff len).1 hlen
  rw [expand_copyoi] at hh
  obtain ⟨t, hrun, hibuf, heq⟩ := run_copyRange len (by omega) hr hh
  simp only [Nat.zero_le, true_and, Nat.zero_add] at hibuf
  exact ⟨t, hrun, congrArg State.host heq, hibuf, heq⟩

end Sys2Proof.Machine
end

section
/-! PROOFS. The checksum and the CHK command (O11 to O13; spec/40_checksum.md R100 to R103, spec/30_encoding.md R72, R73).
CHK is the checksum of a wrapping range, so what R103 says of CHK over pieces is that the range is cut in two and the
checksum chains over the cut. -/

namespace Sys2Proof.Machine

/-! ## The checksum function -/

/-- One step of the fold on naturals, as R100 writes it. -/
theorem chkStep_eq_ofNat (cs x : Byte) : chkStep cs x = BitVec.ofNat 8 (((cs ^^^ x).toNat + 1) % 256) := by
  apply BitVec.eq_of_toNat_eq
  simp [chkStep, BitVec.toNat_add]

theorem chk_eq_foldl (s : List Byte) (seed : Byte) : chk s seed = s.foldl chkStep seed := by
  induction s generalizing seed with
  | nil => rfl
  | cons x s ih => exact ih _

/-- Over a fixed sequence the checksum is injective in the seed, since each step is. -/
theorem chk_inj_seed (s : List Byte) (c c' : Byte) : chk s c = chk s c' ↔ c = c' := by
  induction s generalizing c c' with
  | nil => exact Iff.rfl
  | cons x s ih => rw [chk_cons, chk_cons, ih, chkStep_inj_left]

/-- For a fixed seed the checksum is injective in each byte, wherever it stands (R101 item 3). -/
theorem chk_inj_byte (a b : List Byte) (x y seed : Byte) :
    chk (a ++ x :: b) seed = chk (a ++ y :: b) seed ↔ x = y := by
  rw [chk_append, chk_append, chk_cons, chk_cons, chk_inj_seed, chkStep_inj_right]

/-- Settles O12: a changed byte changes the result of its own step, and every later step is injective in the running
value. -/
theorem checksumLaws : Obligations.ChecksumLaws :=
  ⟨chk_nil, chk_append, fun a b x y seed hxy => mt (chk_inj_byte a b x y seed).1 hxy, by decide⟩

/-! ## The ranges CHK reads -/

/-- A range is cut at any point. -/
theorem ibufWrap_add (s : State) (off m n : Nat) :
    s.ibufWrap off (m + n) = s.ibufWrap off m ++ s.ibufWrap (off + m) n := by
  simp only [State.ibufWrap, List.range_add, List.map_append, List.map_map, Function.comp_def, Nat.add_assoc]

/-- A range may start past the end of IBUF: only the start modulo 256 counts. -/
theorem ibufWrap_mod (s : State) (off n : Nat) : s.ibufWrap (off % 256) n = s.ibufWrap off n := by
  simp only [State.ibufWrap, Config.bufSize, Nat.mod_add_mod]

@[simp] theorem ibufWrap_one (s : State) (off : Nat) : s.ibufWrap off 1 = [s.ibufAt (off % 256)] := rfl

/-- A list that IBUF holds byte by byte is the range of its length. -/
theorem ibufWrap_of_holds {s : State} {off : Nat} {l : List Byte}
    (h : ∀ i (hi : i < l.length), s.ibufAt ((off + i) % 256) = l[i]) : s.ibufWrap off l.length = l := by
  apply List.ext_getElem (length_ibufWrap s off l.length)
  intro i _ hi
  rw [← h i hi]
  simp [State.ibufWrap, Config.bufSize]

/-! ## The CHK command -/

/-- What CHK leaves (R102). -/
theorem exec_chk (seed len off : Byte) (s : State) : exec (.chk seed len off) s =
    .next { s with result := chk (s.ibufWrap off.toNat len.toNat) seed, err := 0 } := rfl

/-- Settles O11: the checksum of the range is R100's fold, and the fold over no byte is the seed. -/
theorem chkFoldsIbufRange : Obligations.ChkFoldsIbufRange := by
  refine ⟨decode_packWord_chk, fun seed len off s => ⟨?fold, ?empty⟩⟩
  case fold =>
    have hstep : chkStep = fun cs x => BitVec.ofNat 8 (((cs ^^^ x).toNat + 1) % 256) :=
      funext₂ chkStep_eq_ofNat
    rw [exec_chk, chk_eq_foldl, hstep]
    rfl
  case empty =>
    rintro rfl
    rfl

/-- CHK over a range continued by CHK over the bytes that follow it, in one checksum (R103). -/
theorem chk_ibufWrap_add (s : State) (seed off m n : Byte) (hmn : m.toNat + n.toNat < 256) :
    chk (s.ibufWrap off.toNat (m + n).toNat) seed =
      chk (s.ibufWrap (off + m).toNat n.toNat) (chk (s.ibufWrap off.toNat m.toNat) seed) := by
  have hlen : (m + n).toNat = m.toNat + n.toNat := BitVec.toNat_add_of_lt hmn
  have hoff : (off + m).toNat = (off.toNat + m.toNat) % 256 := BitVec.toNat_add off m
  rw [hlen, hoff, ibufWrap_mod, ibufWrap_add, chk_append]

/-! ## The trailing checksum of a frame -/

/-- The bytes of a frame before its trailing checksum: header and payload (R70). -/
def frameBody (c : Params) (p : List Byte) : List Byte :=
  let size : Byte := BitVec.ofNat 8 (p.length + 4)
  [c.MAGIC, size, headerChecksum c size] ++ p

/-- The last byte of a frame is the checksum of all before it, seeded with the header checksum (R73). -/
theorem frame_eq_body_append (c : Params) (p : List Byte) :
    frame c p = frameBody c p ++ [chk (frameBody c p) (headerChecksum c (BitVec.ofNat 8 (p.length + 4)))] := rfl

theorem length_frameBody (c : Params) (p : List Byte) : (frameBody c p).length = p.length + 3 := rfl

/-- Where IBUF holds a frame, the range of its first `S - 1` bytes is its body, and the byte after it the body's checksum
seeded with the frame's third byte. -/
theorem ibuf_of_holds_frame {s : State} {c : Params} {p : List Byte} {off : Nat}
    (h : ∀ i (hi : i < (frame c p).length), s.ibufAt ((off + i) % 256) = (frame c p)[i]) :
    s.ibufWrap off (p.length + 3) = frameBody c p ∧
      s.ibufAt ((off + (p.length + 3)) % 256) = chk (frameBody c p) (s.ibufAt ((off + 2) % 256)) := by
  have hhcs : s.ibufAt ((off + 2) % 256) = headerChecksum c (BitVec.ofNat 8 (p.length + 4)) :=
    h 2 (by rw [length_frame]; omega)
  have hall : s.ibufWrap off (p.length + 3 + 1) = frame c p := length_frame c p ▸ ibufWrap_of_holds h
  rw [ibufWrap_add, ibufWrap_one, frame_eq_body_append] at hall
  obtain ⟨hbody, hlast⟩ := List.append_inj hall (length_ibufWrap s off (p.length + 3))
  rw [hhcs]
  exact ⟨hbody, List.singleton_inj.1 hlast⟩

/-- Settles O13: the checksum chains over the cut of the range, and over the body of a frame it is the frame's last byte by
the frame's own definition. -/
theorem chkOfPiecesIsChkOfRange : Obligations.ChkOfPiecesIsChkOfRange := by
  refine ⟨?pieces, ?frame⟩
  case pieces =>
    intro s t u v seed off m n hmn ht hu hv
    rw [exec_chk] at ht hv
    cases ht
    rw [exec_chk] at hu
    cases hu
    cases hv
    rw [chk_ibufWrap_add s seed off m n hmn]
    rfl
  case frame =>
    intro s t p base hp hholds ht
    obtain ⟨hbody, hlast⟩ := ibuf_of_holds_frame hholds
    rw [exec_chk, toNat_ofNat_of_lt (by omega), hbody] at ht
    cases ht
    exact hlast.symm

end Sys2Proof.Machine
end

section
/-! PROOFS. The stuffing encoder SENC (O14, O15; spec/41_stuffing.md R111 to R113): it fails or delivers the stuffed
message, whose length counts the escaped bytes. -/

namespace Sys2Proof.Machine

/-- Two wire bytes for each data byte that is escaped, one for every other, and the two ENDs (R113). -/
theorem length_stuff (c : Params) (b : List Byte) :
    (stuff c b).length = 2 + b.length + b.countP fun x => decide (x = c.END ∨ x = c.ESC) := by
  have hbody : (b.flatMap (escByte c)).length =
      b.length + b.countP fun x => decide (x = c.END ∨ x = c.ESC) := by
    induction b with
    | nil => rfl
    | cons x b ih =>
      rw [List.flatMap_cons, List.length_append, length_escByte, ih, List.countP_cons, List.length_cons]
      simp only [decide_eq_true_eq]
      split <;> omega
  simp only [stuff_eq, List.length_cons, List.length_append, hbody, List.length_nil]
  omega

/-- SENC without capacity for the worst case (R112). -/
theorem exec_senc_of_not_fits {len cap : Byte} (h : 2 * len.toNat + 2 > cap.toNat) (s : State) :
    exec (.senc len cap) s = .next { s with result := 0, err := 1 } := if_pos h

/-- SENC with capacity for the worst case (R112). -/
theorem exec_senc_of_fits {len cap : Byte} (h : 2 * len.toNat + 2 ≤ cap.toNat) (s : State) :
    exec (.senc len cap) s = .next (s.deliver (stuff s.cfg (s.ibufPrefix len.toNat))).succeed :=
  if_neg (by omega)

theorem length_stuff_ibufPrefix_le (s : State) (len : Byte) :
    (stuff s.cfg (s.ibufPrefix len.toNat)).length ≤ 2 * len.toNat + 2 := by
  simpa using length_stuff_le s.cfg (s.ibufPrefix len.toNat)

/-- A stuffed message that fits the capacity has its length in RESULT, with no wrap at 8 bits. -/
theorem toNat_result_deliver_stuff {len cap : Byte} (h : 2 * len.toNat + 2 ≤ cap.toNat) (s : State) :
    (s.deliver (stuff s.cfg (s.ibufPrefix len.toNat))).succeed.result.toNat =
      (stuff s.cfg (s.ibufPrefix len.toNat)).length := by
  have hle := length_stuff_ibufPrefix_le s len
  have hcap := cap.isLt
  exact toNat_ofNat_of_lt (by omega)

/-- Settles O14: the two cases of the capacity check, and what OBUF reads after a delivery. -/
theorem sencStuffsSourceOrFails : Obligations.SencStuffsSourceOrFails := by
  refine ⟨decode_packWord_senc, fun len cap s => ⟨fun h => exec_senc_of_not_fits h s, fun h => ?_⟩⟩
  have hge := length_stuff s.cfg (s.ibufPrefix len.toNat)
  have hle := length_stuff_ibufPrefix_le s len
  have hcap := cap.isLt
  exact ⟨_, stuff s.cfg (s.ibufPrefix len.toNat), exec_senc_of_fits h s, rfl, toNat_result_deliver_stuff h s, by omega,
    by omega, obufAt_deliver s _, rfl⟩

/-- Settles O15: ERR 0 excludes the failure, and otherwise RESULT is the length of the stuffed message. -/
theorem sencLengthLaw : Obligations.SencLengthLaw := by
  intro len cap s t ht herr
  by_cases hcap : 2 * len.toNat + 2 ≤ cap.toNat
  · rw [exec_senc_of_fits hcap] at ht
    cases ht
    have hlen := length_stuff s.cfg (s.ibufPrefix len.toNat)
    have hle := length_stuff_ibufPrefix_le s len
    rw [length_ibufPrefix] at hlen
    rw [toNat_result_deliver_stuff hcap]
    exact ⟨hlen, by omega, hle, hcap⟩
  · rw [exec_senc_of_not_fits (by omega)] at ht
    cases ht
    cases herr

end Sys2Proof.Machine
end

section
/-! PROOFS. The stuffing decoder SDEC (O17, O18, O19; spec/41_stuffing.md R114 to R120). One SDEC command is the total
function `State.receive` on states, and a run of them is a fold of it. `Accumulated` says which message the accumulation
holds, and the wire bytes of one data byte add that byte to the message. -/

namespace Sys2Proof.Machine

/-! ## One SDEC command -/

/-- The state an SDEC command leaves (R114). -/
def State.receive (s : State) (b : Byte) : State :=
  (if b = s.cfg.END then (s.setSdReady 0).sdecEnd else (s.setSdReady 0).sdecData b).succeed

theorem exec_sdec (b : Byte) (s : State) : exec (.sdec b) s = .next (s.receive b) := rfl

theorem receive_END {s : State} {b : Byte} (h : b = s.cfg.END) :
    s.receive b = { s with sdReady := s.sdPos, sdPos := 0, sdLast := s.cfg.END, err := 0 } := by
  have hready : (if s.sdPos = 0 then 0 else s.sdPos) = s.sdPos := ite_eq_right_iff.2 Eq.symm
  rw [State.receive, if_pos h, sdecEnd_eq, State.setSdReady_sdPos, State.setSdReady_sdReady, hready]
  rfl

theorem receive_of_dropped {s : State} {b : Byte} (hb : b ≠ s.cfg.END) (h : storedByte s.cfg s.sdLast b = none) :
    s.receive b = { s with sdReady := 0, sdLast := b, err := 0 } := by
  simp [State.receive, hb, sdecData_eq, h, State.setSdReady, State.succeed_eq]

theorem receive_of_stored {s : State} {b v : Byte} (hb : b ≠ s.cfg.END) (h : storedByte s.cfg s.sdLast b = some v) :
    s.receive b = { s.append v with sdReady := 0, sdLast := b, err := 0 } := by
  simp [State.receive, hb, sdecData_eq, h, State.setSdReady, State.succeed_eq, append_eq]

@[simp] theorem receive_cfg (s : State) (b : Byte) : (s.receive b).cfg = s.cfg := by
  rw [execSdec_frame (exec_sdec b s)]

/-- Readiness after an SDEC command (R118): what END closes off, else nothing. -/
theorem receive_sdReady (s : State) (b : Byte) :
    (s.receive b).sdReady = if b = s.cfg.END then s.sdPos else 0 := by
  split
  case isTrue h => rw [receive_END h]
  case isFalse h =>
    cases hv : storedByte s.cfg s.sdLast b with
    | none => rw [receive_of_dropped h hv]
    | some v => rw [receive_of_stored h hv]

/-- The ACC index at which `Append` stores: a full accumulation restarts at 0 (R117). -/
def State.appendPos (s : State) : Byte := if s.sdPos.toNat = s.cfg.N then 0 else s.sdPos

theorem append_sdPos (s : State) (v : Byte) : (s.append v).sdPos = s.appendPos + 1 := rfl

theorem accAt_append (s : State) (v : Byte) (i : Nat) :
    (s.append v).accAt i = if i = s.appendPos.toNat then v else s.accAt i :=
  Memory.read_set s.acc s.draw .acc s.appendPos.toNat i v

/-- Settles O17: the byte is END, dropped or stored, and a stored byte is read back from ACC by read after write. -/
theorem sdecPushesOneByte : Obligations.SdecPushesOneByte := by
  refine ⟨decode_packWord_sdec, fun b s => ⟨fun hb => ?ends, fun hb => ⟨fun hnone => ?dropped, fun v hv => ?stored⟩⟩⟩
  case ends => rw [exec_sdec, receive_END hb]
  case dropped => rw [exec_sdec, receive_of_dropped hb hnone]
  case stored =>
    rw [exec_sdec, receive_of_stored hb hv]
    refine ⟨_, rfl, rfl, ?_, fun i hi => ?_⟩
    · exact (accAt_append s v _).trans (if_pos rfl)
    · exact (accAt_append s v i).trans (if_neg hi)

/-! ## Readiness and the other events of the host -/

theorem runWord_of_not_decode {w : Word} (h : ∀ i, decode w ≠ .ok i) (s : State) :
    runWord w s = .next { s with err := 2 } := by
  cases hw : decode w with
  | ok i => exact absurd hw (h i)
  | error r => simp [runWord, hw, execIllegal, State.fail_eq, errIllegal]

/-- Settles O18: an END with nothing accumulated sets readiness to that 0, and the rest is the frame of the other commands,
of an illegal word and of a host read. -/
theorem sdecReadinessIsOneShot : Obligations.SdecReadinessIsOneShot := by
  refine ⟨fun b s t h => ?sdec, fun i s t hi h => ?other, fun w s t hw h => ?illegal, fun s t n a rest hh h => ?read⟩
  case sdec =>
    rw [exec_sdec] at h
    cases h
    rw [receive_sdReady]
    by_cases hpos : s.sdPos = 0
    · rw [hpos, ite_self, ite_self]
    · simp only [ne_eq, hpos, not_false_eq_true, and_true]
  case other =>
    obtain ⟨_, _, hdecoder, _⟩ := commandsWriteOnlyTheirState i s t h
    obtain ⟨_, _, _, hready⟩ := hdecoder hi
    exact hready
  case illegal =>
    rw [runWord_of_not_decode hw] at h
    cases h
    rfl
  case read =>
    cases hr : s.inReset with
    | true => simp [step, hostStep, hh, perform, hr] at h
    | false =>
      rw [step_of_read hr hh] at h
      cases h
      rfl

/-! ## A run of SDEC commands -/

theorem runExec_sdec (bs : List Byte) (s : State) :
    runExec (bs.map .sdec) s = .next (bs.foldl State.receive s) := by
  induction bs generalizing s with
  | nil => rfl
  | cons b bs ih =>
    rw [List.map_cons, List.foldl_cons, ← ih]
    rfl

theorem foldl_receive_cfg (bs : List Byte) (s : State) : (bs.foldl State.receive s).cfg = s.cfg := by
  induction bs generalizing s with
  | nil => rfl
  | cons b bs ih => rw [List.foldl_cons, ih, receive_cfg]

/-- No readiness follows a run of SDEC commands whose last byte is not END. -/
theorem foldl_receive_sdReady (bs : List Byte) {b : Byte} {s : State} (hb : b ≠ s.cfg.END) :
    ((bs ++ [b]).foldl State.receive s).sdReady = 0 := by
  rw [List.foldl_append, List.foldl_cons, List.foldl_nil, receive_sdReady, foldl_receive_cfg, if_neg hb]

/-- ESC and a substitute, received with no escape pending, append the byte the substitute stands for. -/
theorem foldl_receive_escape {s : State} {sub v : Byte} (hwf : s.cfg.wf = true) (hlast : s.sdLast ≠ s.cfg.ESC)
    (hsub : sub ≠ s.cfg.END) (hv : storedByte s.cfg s.cfg.ESC sub = some v) :
    [s.cfg.ESC, sub].foldl State.receive s = { s.append v with sdReady := 0, sdLast := sub, err := 0 } := by
  have hescape : s.receive s.cfg.ESC = { s with sdReady := 0, sdLast := s.cfg.ESC, err := 0 } :=
    receive_of_dropped (END_ne_ESC hwf).symm (by rw [storedByte, if_neg hlast, if_pos rfl])
  rw [List.foldl_cons, List.foldl_cons, List.foldl_nil, hescape]
  exact receive_of_stored hsub hv

/-- The wire bytes of a data byte, received with no escape pending, append that byte and leave no escape pending. -/
theorem foldl_receive_escByte {s : State} (hwf : s.cfg.wf = true) (hlast : s.sdLast ≠ s.cfg.ESC) (x : Byte) :
    ∃ last, last ≠ s.cfg.ESC ∧
      (escByte s.cfg x).foldl State.receive s = { s.append x with sdReady := 0, sdLast := last, err := 0 } := by
  unfold escByte
  split
  case isTrue hx =>
    subst hx
    exact ⟨s.cfg.ESC_END, (ESC_ne_ESC_END hwf).symm,
      foldl_receive_escape hwf hlast (END_ne_ESC_END hwf).symm (by simp [storedByte])⟩
  case isFalse hEND =>
    split
    case isTrue hx =>
      subst hx
      exact ⟨s.cfg.ESC_ESC, (ESC_ne_ESC_ESC hwf).symm, foldl_receive_escape hwf hlast (END_ne_ESC_ESC hwf).symm
        (by simp [storedByte, (ESC_END_ne_ESC_ESC hwf).symm])⟩
    case isFalse hESC =>
      exact ⟨x, hESC, receive_of_stored hEND (by rw [storedByte, if_neg hlast, if_neg hESC])⟩

/-! ## What the accumulation holds -/

/-- How many bytes an accumulation of capacity `N` holds after `n` appends from empty (R117, R121). -/
def fillCount (N n : Nat) : Nat := if n = 0 then 0 else (n - 1) % N + 1

theorem fillCount_le_self (N n : Nat) : fillCount N n ≤ n := by
  have := Nat.mod_le (n - 1) N
  unfold fillCount
  split <;> omega

theorem fillCount_of_le {N n : Nat} (h : n ≤ N) : fillCount N n = n := by
  unfold fillCount
  split
  · omega
  · rw [Nat.mod_eq_of_lt (by omega)]
    omega

theorem fillCount_le_capacity {N : Nat} (hN : 0 < N) (n : Nat) : fillCount N n ≤ N := by
  have := Nat.mod_lt (n - 1) hN
  unfold fillCount
  split <;> omega

/-- One more append: one byte more, counted from 0 again when the accumulation was full. -/
theorem fillCount_succ {N : Nat} (hN : 0 < N) (n : Nat) :
    fillCount N (n + 1) = (if fillCount N n = N then 0 else fillCount N n) + 1 := by
  cases n with
  | zero => simp [fillCount, hN.ne]
  | succ k =>
    have hlt := Nat.mod_lt k hN
    have hmod : (k + 1) % N = if k % N + 1 = N then 0 else k % N + 1 := by
      rw [← Nat.mod_add_mod]
      split
      case isTrue h => rw [h, Nat.mod_self]
      case isFalse h => exact Nat.mod_eq_of_lt (by omega)
    simpa [fillCount] using hmod

/-- No escape is pending, and the accumulation holds what is left of the data bytes `m` appended since it was empty: as
many as `fillCount` says, the last ones of `m` (R121). -/
structure Accumulated (m : List Byte) (s : State) : Prop where
  notEscaped : s.sdLast ≠ s.cfg.ESC
  count : s.sdPos.toNat = fillCount s.cfg.N m.length
  bytes : ∀ i, i < s.sdPos.toNat → some (s.accAt i) = m[m.length - s.sdPos.toNat + i]?

/-- The bytes of a message: the one just appended is the last of the new list, those below it are the last of the old. -/
theorem Accumulated.append_bytes {m : List Byte} {s : State} (hs : Accumulated m s) (x : Byte) {i : Nat}
    (hi : i ≤ s.appendPos.toNat) :
    some ((s.append x).accAt i) = (m ++ [x])[m.length - s.appendPos.toNat + i]? := by
  have hle : s.sdPos.toNat ≤ m.length := hs.count ▸ fillCount_le_self _ _
  rw [accAt_append]
  by_cases hfull : s.sdPos.toNat = s.cfg.N
  · have hpos : s.appendPos = 0 := if_pos hfull
    obtain rfl : i = 0 := by simpa [hpos] using hi
    simp [hpos]
  · have hpos : s.appendPos = s.sdPos := if_neg hfull
    rw [hpos] at hi ⊢
    by_cases htop : i = s.sdPos.toNat
    · rw [if_pos htop, htop, Nat.sub_add_cancel hle, List.getElem?_concat_length]
    · rw [if_neg htop, hs.bytes i (by omega), List.getElem?_append_left (by omega)]

/-- The wire bytes of a data byte add it to what has accumulated. -/
theorem Accumulated.receive_escByte {m : List Byte} {s : State} (hs : Accumulated m s) (hwf : s.cfg.wf = true) (x : Byte) :
    Accumulated (m ++ [x]) ((escByte s.cfg x).foldl State.receive s) := by
  obtain ⟨last, hlast, heq⟩ := foldl_receive_escByte hwf hs.notEscaped x
  have hN := four_le_N hwf
  have hN' := N_le_127 hwf
  have hcount : s.sdPos.toNat ≤ s.cfg.N := hs.count ▸ fillCount_le_capacity (by omega) _
  have hpos : s.appendPos.toNat = if s.sdPos.toNat = s.cfg.N then 0 else s.sdPos.toNat := by
    unfold State.appendPos
    split <;> rfl
  have hnext : (s.append x).sdPos.toNat = s.appendPos.toNat + 1 := by
    rw [append_sdPos]
    exact BitVec.toNat_add_of_lt (y := 1) (by rw [hpos]; change _ + 1 < 256; split <;> omega)
  rw [heq]
  refine ⟨hlast, ?_, fun i hi => ?_⟩
  · change (s.append x).sdPos.toNat = fillCount s.cfg.N _
    rw [hnext, hpos, hs.count, List.length_append, List.length_singleton, fillCount_succ (by omega)]
  · change i < (s.append x).sdPos.toNat at hi
    change some ((s.append x).accAt i) = (m ++ [x])[(m ++ [x]).length - (s.append x).sdPos.toNat + i]?
    rw [hnext] at hi ⊢
    rw [hs.append_bytes x (by omega), List.length_append, List.length_singleton, Nat.add_sub_add_right]

/-- The body of a stuffed message adds the message to what has accumulated. -/
theorem Accumulated.receive_body {m : List Byte} {s : State} (hs : Accumulated m s) (hwf : s.cfg.wf = true)
    (b : List Byte) : Accumulated (m ++ b) ((b.flatMap (escByte s.cfg)).foldl State.receive s) := by
  induction b generalizing m s with
  | nil => simpa using hs
  | cons x b ih =>
    have hcfg := foldl_receive_cfg (escByte s.cfg x) s
    have hrest := ih (hs.receive_escByte hwf x) (by rwa [hcfg])
    rwa [hcfg, ← List.foldl_append, ← List.flatMap_cons, List.append_assoc, List.singleton_append] at hrest

/-- The leading END of a stuffed message starts an empty accumulation with no escape pending (R120). -/
theorem accumulated_nil_of_END {s : State} (hwf : s.cfg.wf = true) : Accumulated [] (s.receive s.cfg.END) := by
  rw [receive_END rfl]
  exact ⟨END_ne_ESC hwf, rfl, fun i hi => absurd hi (Nat.not_lt_zero i)⟩

/-- Cut after its leading END and before its trailing one, a stuffed message ends in a byte other than END (R77). -/
theorem take_stuff_eq_concat {c : Params} (hwf : c.wf = true) (b : List Byte) {k : Nat} (hk : 2 ≤ k)
    (hlen : k < (stuff c b).length) : ∃ l x, (stuff c b).take k = l ++ [x] ∧ x ≠ c.END := by
  obtain ⟨body, hbody, hmem⟩ := stuffedBodyHoldsNoEnd c b hwf
  obtain ⟨j, rfl⟩ : ∃ j, k = j + 2 := ⟨k - 2, by omega⟩
  have hj : j < body.length := by
    rw [hbody] at hlen
    simp only [List.length_append, List.length_singleton] at hlen
    omega
  refine ⟨c.END :: body.take j, body[j], ?_, fun h => hmem (h ▸ List.getElem_mem hj)⟩
  rw [hbody, List.append_assoc, List.singleton_append, List.take_succ_cons, List.take_append_of_le_length (by omega),
    List.take_succ_eq_append_getElem hj, List.cons_append]

/-- A whole stuffed message: the leading END empties the accumulation, the body fills it, and the final END makes what it
holds ready. -/
theorem foldl_receive_stuff {s : State} (hwf : s.cfg.wf = true) (b : List Byte) :
    ∃ u, Accumulated b u ∧ u.cfg = s.cfg ∧ (stuff s.cfg b).foldl State.receive s =
      { u with sdReady := u.sdPos, sdPos := 0, sdLast := u.cfg.END, err := 0 } := by
  have hacc := (accumulated_nil_of_END hwf).receive_body (by rwa [receive_cfg]) b
  rw [receive_cfg, List.nil_append] at hacc
  have hcfg := (foldl_receive_cfg (b.flatMap (escByte s.cfg)) (s.receive s.cfg.END)).trans (receive_cfg s _)
  refine ⟨_, hacc, hcfg, ?_⟩
  rw [stuff_eq, List.foldl_cons, List.foldl_append, List.foldl_cons, List.foldl_nil]
  exact receive_END (congrArg Params.END hcfg.symm)

/-- Settles O19: after the body the accumulation holds the last bytes of the message, as many as `fillCount` says, and no
byte of the body is an END. -/
theorem sdecDecodesStuffedMessage : Obligations.SdecDecodesStuffedMessage := by
  intro s b hwf
  refine ⟨⟨_, runExec_sdec [s.cfg.END] s, ?_⟩, fun k hk hlen => ?_, ?_⟩
  · rw [List.foldl_cons, List.foldl_nil, receive_END rfl]
    exact ⟨rfl, rfl, rfl⟩
  · obtain ⟨l, x, htake, hx⟩ := take_stuff_eq_concat hwf b hk hlen
    rw [runExec_sdec, htake]
    exact ⟨_, rfl, foldl_receive_sdReady l hx⟩
  · obtain ⟨u, hacc, hcfg, hrun⟩ := foldl_receive_stuff hwf b
    have hcount : u.sdPos.toNat = fillCount s.cfg.N b.length := hcfg ▸ hacc.count
    rw [runExec_sdec, hrun]
    refine ⟨_, rfl, rfl, congrArg Params.END hcfg, fun hb => ?_, fun hb => ⟨?_, fun hle => ?_, hacc.bytes⟩⟩
    · exact BitVec.eq_of_toNat_eq (by rw [hcount, hb]; rfl)
    · exact hcount.trans (if_neg (by simpa using hb))
    · exact hcount.trans (fillCount_of_le hle)

end Sys2Proof.Machine
end

section
/-! PROOFS. The frame encoder FENC (O20; spec/42_frame_encoder.md R140, spec/30_encoding.md R70 to R73): it fails or
delivers the frame of the source range, whose bytes are then read off OBUF one region after the other. -/

namespace Sys2Proof.Machine

/-! ## The bytes of a frame -/

theorem frame_zero (c : Params) (p : List Byte) : (frame c p)[0]? = some c.MAGIC := rfl

theorem frame_one (c : Params) (p : List Byte) : (frame c p)[1]? = some (BitVec.ofNat 8 (p.length + 4)) := rfl

theorem frame_two (c : Params) (p : List Byte) :
    (frame c p)[2]? = some (headerChecksum c (BitVec.ofNat 8 (p.length + 4))) := rfl

theorem frame_payload (c : Params) {p : List Byte} {i : Nat} (hi : i < p.length) : (frame c p)[3 + i]? = p[i]? := by
  rw [frame_eq_body_append, List.getElem?_append_left (by rw [length_frameBody]; omega), frameBody,
    List.getElem?_append_right (by simp)]
  simp

/-- The trailing checksum covers every byte before it (R73). -/
theorem frame_last (c : Params) (p : List Byte) : (frame c p)[p.length + 3]? =
    some (chk ((frame c p).take (p.length + 3)) (headerChecksum c (BitVec.ofNat 8 (p.length + 4)))) := by
  rw [frame_eq_body_append, ← length_frameBody c p, List.take_left, List.getElem?_concat_length]

/-! ## The FENC command -/

/-- FENC of a frame that exceeds `N` or the capacity (R140). -/
theorem exec_fenc_of_not_fits {len cap : Byte} {s : State}
    (h : len.toNat + 4 > s.cfg.N ∨ len.toNat + 4 > cap.toNat) :
    exec (.fenc len cap) s = .next { s with result := 0, err := 1 } := if_pos h

/-- FENC of a frame that fits both (R140). -/
theorem exec_fenc_of_fits {len cap : Byte} {s : State} (hN : len.toNat + 4 ≤ s.cfg.N) (hcap : len.toNat + 4 ≤ cap.toNat) :
    exec (.fenc len cap) s = .next (s.deliver (frame s.cfg (s.ibufPrefix len.toNat))).succeed :=
  if_neg (by omega)

/-- The size byte of a frame around `len` bytes, as the byte sum R140 writes. -/
theorem ofNat_toNat_add_four (len : Byte) : BitVec.ofNat 8 (len.toNat + 4) = len + 4 := by
  rw [BitVec.ofNat_add, BitVec.ofNat_toNat, BitVec.setWidth_eq]
  rfl

theorem ibufPrefix_getElem? (s : State) {len i : Nat} (hi : i < len) : (s.ibufPrefix len)[i]? = some (s.ibufAt i) := by
  simp [State.ibufPrefix, hi]

/-- After a delivery OBUF reads the delivered bytes in front. -/
theorem obufAt_deliver_of_getElem? {s : State} {out : List Byte} {i : Nat} {b : Byte} (h : out[i]? = some b) :
    (s.deliver out).obufAt i = b := by
  obtain ⟨hi, hb⟩ := List.getElem?_eq_some_iff.1 h
  rw [obufAt_deliver, dif_pos hi, hb]

theorem obufAt_deliver_of_length_le {s : State} {out : List Byte} {i : Nat} (h : out.length ≤ i) :
    (s.deliver out).obufAt i = s.obufAt i := by
  rw [obufAt_deliver, dif_neg (by omega)]

theorem range_map_obufAt_deliver (s : State) {out : List Byte} {n : Nat} (hn : n ≤ out.length) :
    (List.range n).map (s.deliver out).obufAt = out.take n := by
  apply List.ext_getElem (by simpa using hn)
  intro i hi _
  have hlt : i < out.length := by
    rw [List.length_map, List.length_range] at hi
    omega
  rw [List.getElem_map, List.getElem_range, List.getElem_take]
  exact obufAt_deliver_of_getElem? (List.getElem?_eq_getElem hlt)

/-- Settles O20: the two cases of the capacity check, and in the delivered frame one lemma for each region. -/
theorem fencBuildsFrameOrFails : Obligations.FencBuildsFrameOrFails := by
  refine ⟨decode_packWord_fenc, fun len cap s _ => ⟨exec_fenc_of_not_fits, fun hN hcap => ?_⟩⟩
  have hp := length_ibufPrefix s len.toNat
  have hsize := ofNat_toNat_add_four len
  generalize hpre : s.ibufPrefix len.toNat = p at hp
  have hlen : (frame s.cfg p).length = len.toNat + 4 := by rw [length_frame, hp]
  have hlast := frame_last s.cfg p
  rw [hp, hsize] at hlast
  refine ⟨(s.deliver (frame s.cfg p)).succeed, hpre ▸ exec_fenc_of_fits hN hcap, ?result, ?magic, ?size, ?header,
    ?payload, ?trailer, ?rest, rfl⟩
  case result => exact (toNat_ofNat_of_lt (by have := cap.isLt; omega)).trans hlen
  case magic => exact obufAt_deliver_of_getElem? (frame_zero _ _)
  case size => exact obufAt_deliver_of_getElem? (by rw [frame_one, hp, hsize])
  case header => exact obufAt_deliver_of_getElem? (by rw [frame_two, hp, hsize]; rfl)
  case payload =>
    intro i hi
    refine obufAt_deliver_of_getElem? ?_
    rw [frame_payload _ (hp ▸ hi), ← hpre, ibufPrefix_getElem? s hi]
  case trailer =>
    refine (obufAt_deliver_of_getElem? hlast).trans ?_
    rw [← range_map_obufAt_deliver s (by omega)]
    rfl
  case rest => exact fun i hi => obufAt_deliver_of_length_le (by omega)

end Sys2Proof.Machine
end

section
/-! PROOFS. The de-framer on the frame of a payload (O31; spec/42_frame_encoder.md R140, R143, spec/43_deframer.md R150 to
R158). While the frame comes in, the pending candidate is the part of the frame received so far, so each check the de-framer
makes is one the encoder computed: a pass over a proper part waits, and the pass over the whole frame emits the payload. -/

namespace Sys2Proof.Machine

/-! ## The intake, a found candidate and a change of state, field by field -/

@[simp] theorem intake_cfg (s : State) (b : Byte) : (s.intake b).cfg = s.cfg := rfl
@[simp] theorem intake_dout (s : State) (b : Byte) : (s.intake b).dout = s.dout := rfl
@[simp] theorem intake_dfState (s : State) (b : Byte) : (s.intake b).dfState = s.dfState := rfl
@[simp] theorem candidate_cfg (s : State) (q : Byte) : (s.candidate q).cfg = s.cfg := rfl
@[simp] theorem candidate_dout (s : State) (q : Byte) : (s.candidate q).dout = s.dout := rfl
@[simp] theorem candidate_dfState (s : State) (q : Byte) : (s.candidate q).dfState = .headerWait := rfl
theorem candidate_intake (s : State) (b q : Byte) : (s.intake b).candidate q = (s.candidate q).intake b := rfl

theorem setDfState_self {s : State} {v : DfrState} (h : s.dfState = v) : s.setDfState v = s := by
  rw [State.setDfState, ← h]

/-! ## The bytes of a candidate -/

theorem candBytes_add (s : State) (a m n : Nat) : s.candBytes a (m + n) = s.candBytes a m ++ s.candBytes (a + m) n := by
  rw [State.candBytes, ← List.range'_append_1, List.map_append]
  rfl

@[simp] theorem candBytes_one (s : State) (a : Nat) : s.candBytes a 1 = [s.candByte a] := rfl

theorem avail_intake {s : State} (hw : Window s.cfg s.ring s.dfPush s.dfStart) (hlt : s.avail < s.cfg.N) (b : Byte) :
    (s.intake b).avail = s.avail + 1 := hw.dist_push hlt

/-- The byte a DFR command takes in becomes the candidate's next one (R151). -/
theorem candBytes_intake {s : State} (hw : Window s.cfg s.ring s.dfPush s.dfStart) (hlt : s.avail < s.cfg.N) (b : Byte) :
    (s.intake b).candBytes 0 (s.intake b).avail = s.candBytes 0 s.avail ++ [b] := by
  have hold : (s.intake b).candBytes 0 s.avail = s.candBytes 0 s.avail :=
    List.map_congr_left fun k hk => candByte_intake hw hlt b (by simpa using hk)
  have hnew : (s.intake b).candByte s.avail = b := (ringAt_intake s b _).trans (if_pos hw.index_push)
  rw [avail_intake hw hlt, candBytes_add, hold, candBytes_one, Nat.zero_add, hnew]

/-- The header bytes of a candidate whose bytes begin a frame, all of the header among them (R70 to R72). -/
theorem header_bytes_of_prefix_frame {s : State} {p : List Byte} (h3 : 3 ≤ s.avail)
    (hpre : s.candBytes 0 s.avail <+: frame s.cfg p) :
    s.candByte 0 = s.cfg.MAGIC ∧ s.candByte 1 = BitVec.ofNat 8 (p.length + 4) ∧
      s.candByte 2 = headerChecksum s.cfg (BitVec.ofNat 8 (p.length + 4)) := by
  have hsplit : s.candBytes 0 s.avail = s.candBytes 0 3 ++ s.candBytes 3 (s.avail - 3) := by
    have h := candBytes_add s 0 3 (s.avail - 3)
    rwa [Nat.add_sub_cancel' h3] at h
  have hhead : s.candBytes 0 3 = (frame s.cfg p).take 3 :=
    List.prefix_iff_eq_take.1 ((hsplit ▸ List.prefix_append _ _).trans hpre)
  have hbytes : [s.candByte 0, s.candByte 1, s.candByte 2] =
      [s.cfg.MAGIC, BitVec.ofNat 8 (p.length + 4), headerChecksum s.cfg (BitVec.ofNat 8 (p.length + 4))] := hhead
  simpa using hbytes

/-- Such a candidate passes the header check with the frame's size (R154). -/
theorem headerOk_of_prefix_frame {s : State} {p : List Byte} (hwf : s.cfg.wf = true) (hN : p.length + 4 ≤ s.cfg.N)
    (h3 : 3 ≤ s.avail) (hpre : s.candBytes 0 s.avail <+: frame s.cfg p) :
    s.headerOk = true ∧ s.declared = p.length + 4 := by
  have hN' := N_le_127 hwf
  obtain ⟨hmagic, hsize, hhcs⟩ := header_bytes_of_prefix_frame h3 hpre
  have hdecl : s.declared = p.length + 4 := by
    rw [State.declared, hsize, toNat_ofNat_of_lt (by omega)]
  refine ⟨?_, hdecl⟩
  simp only [State.headerOk, State.sizeOk, Bool.and_eq_true, decide_eq_true_eq]
  refine ⟨?_, by omega, by omega⟩
  rw [hmagic, hsize, hhcs, headerChecksum]

/-- A candidate whose bytes are a whole frame passes the trailing check, and its payload is the frame's (R73, R156). -/
theorem trailerOk_of_frame {s : State} {p : List Byte} (hdecl : s.declared = p.length + 4)
    (hhcs : s.candByte 2 = headerChecksum s.cfg (BitVec.ofNat 8 (p.length + 4)))
    (hframe : s.candBytes 0 (p.length + 4) = frame s.cfg p) : s.trailerOk = true ∧ s.payload = p := by
  rw [candBytes_add s 0 (p.length + 3) 1, candBytes_one, Nat.zero_add, frame_eq_body_append] at hframe
  obtain ⟨hbody, hlast⟩ := List.append_inj' hframe rfl
  have hpayload : s.payload = p := by
    have hsplit := hbody
    rw [Nat.add_comm, candBytes_add, frameBody] at hsplit
    obtain ⟨-, hpay⟩ := List.append_inj hsplit rfl
    rw [State.payload, hdecl]
    exact hpay
  refine ⟨?_, hpayload⟩
  have hsub : p.length + 4 - 1 = p.length + 3 := rfl
  simp only [State.trailerOk, Bool.and_eq_true, decide_eq_true_eq, hdecl, hsub, hbody, hhcs]
  exact ⟨by omega, (List.singleton_inj.1 hlast).symm⟩

/-! ## A pass over part of a frame, and over a whole one -/

theorem dfrPass_of_searching {s : State} (n : Nat) (hst : s.dfState = .searching) : dfrPass s n = dfrSearch s n := by
  rw [dfrPass, hst]

theorem dfrSearch_of_scan_some {s : State} {q : Byte} (n : Nat)
    (h : s.scan (dist s.cfg s.dfLook s.dfPush) s.dfLook = some q) : dfrSearch s n = dfrHeader (s.candidate q) n := by
  rw [dfrSearch, h]

theorem dfrSearch_of_scan_none {s : State} (n : Nat)
    (h : s.scan (dist s.cfg s.dfLook s.dfPush) s.dfLook = none) : dfrSearch s n = ⟨s.setDfLook s.dfPush, n, false⟩ := by
  rw [dfrSearch, h]

theorem dfrHeader_of_avail_lt {s : State} (n : Nat) (h : s.avail < 3) : dfrHeader s n = ⟨s, n, false⟩ := if_pos h

/-- A pending candidate with its header received and valid goes to the BODY_WAIT step, whichever state it is pending in
(R154). -/
theorem dfrPass_of_headerOk {s : State} (n : Nat) (hst : s.dfState ≠ .searching) (h3 : 3 ≤ s.avail)
    (hh : s.headerOk = true) : dfrPass s n = dfrBody (s.setDfState .bodyWait) n := by
  unfold dfrPass
  split
  case h_1 h => exact absurd h hst
  case h_2 => rw [dfrHeader, if_neg (by omega), if_pos hh]
  case h_3 h =>
    rw [setDfState_self h]

theorem dfrBody_of_avail_lt {s : State} (n : Nat) (h : s.avail < s.declared) : dfrBody s n = ⟨s, n, false⟩ := if_pos h

/-- The BODY_WAIT step that emits (R156). -/
theorem dfrBody_of_trailerOk {s : State} (n : Nat) (hle : s.declared ≤ s.avail) (hsize : s.sizeOk = true)
    (htrail : s.trailerOk = true) : dfrBody s n = ⟨(s.emit s.payload).resume, n + 1, true⟩ := by
  simp [dfrBody, hsize, htrail, Nat.not_lt.2 hle]

/-- A pass over a proper part of a frame waits for more (R154, R155). -/
theorem dfrPass_of_proper_prefix {s : State} {p : List Byte} (n : Nat) (hin : InCommand s)
    (hst : s.dfState ≠ .searching) (hwf : s.cfg.wf = true) (hN : p.length + 4 ≤ s.cfg.N)
    (hpre : s.candBytes 0 s.avail <+: frame s.cfg p) (hlt : s.avail < p.length + 4) :
    ∃ v, v ≠ .searching ∧ dfrPass s n = ⟨s.setDfState v, n, false⟩ := by
  by_cases h3 : 3 ≤ s.avail
  · obtain ⟨hh, hdecl⟩ := headerOk_of_prefix_frame hwf hN h3 hpre
    exact ⟨.bodyWait, by decide, (dfrPass_of_headerOk n hst h3 hh).trans
      (dfrBody_of_avail_lt (s := s.setDfState .bodyWait) n (hlt.trans_eq hdecl.symm))⟩
  · have hhdr : s.dfState = .headerWait := by
      cases hin with
      | searching h => exact absurd h hst
      | headerWait h => exact h
      | bodyWait _ _ _ h => exact absurd h h3
    refine ⟨.headerWait, by decide, ?_⟩
    rw [dfrPass, hhdr, setDfState_self hhdr]
    exact dfrHeader_of_avail_lt n (by omega)

/-- A pass over a whole frame emits its payload and searches on (R156, R158). -/
theorem dfrPass_of_frame {s : State} {p : List Byte} (n : Nat) (hst : s.dfState ≠ .searching) (hwf : s.cfg.wf = true)
    (hN : p.length + 4 ≤ s.cfg.N) (hframe : s.candBytes 0 s.avail = frame s.cfg p) :
    dfrPass s n = ⟨(s.emit p).resume, n + 1, true⟩ := by
  have havail : s.avail = p.length + 4 := by
    rw [← length_frame s.cfg p, ← hframe, length_candBytes]
  have hpre : s.candBytes 0 s.avail <+: frame s.cfg p := hframe ▸ List.prefix_refl _
  have h3 : 3 ≤ s.avail := by omega
  obtain ⟨hh, hdecl⟩ := headerOk_of_prefix_frame hwf hN h3 hpre
  obtain ⟨-, -, hhcs⟩ := header_bytes_of_prefix_frame h3 hpre
  obtain ⟨htrail, hpay⟩ := trailerOk_of_frame hdecl hhcs (havail ▸ hframe)
  have hle : s.declared ≤ s.avail := (hdecl.trans havail.symm).le
  have hbody := dfrBody_of_trailerOk (s := s.setDfState .bodyWait) n hle (State.sizeOk_of_headerOk hh) htrail
  rw [dfrPass_of_headerOk n hst h3 hh, hbody, show (s.setDfState .bodyWait).payload = p from hpay]
  rfl

/-! ## A pass over bytes without MAGIC -/

theorem ringAt_nextPos_add {s : State} (hwf : s.cfg.wf = true) (p : Byte) (j : Nat) :
    s.ringAt ((nextPos s.cfg p).toNat + j) = s.ringAt (p.toNat + (1 + j)) := by
  unfold State.ringAt
  rw [Nat.add_mod, nextPos_mod_N hwf, ← Nat.add_mod, Nat.add_assoc]

/-- The scan of R153 finds nothing exactly when no position it visits holds MAGIC. -/
theorem scan_eq_none_iff {s : State} (hwf : s.cfg.wf = true) (k : Nat) (p : Byte) :
    s.scan k p = none ↔ ∀ j, j < k → s.ringAt (p.toNat + j) ≠ s.cfg.MAGIC := by
  induction k generalizing p with
  | zero => simp [State.scan]
  | succ k ih =>
    simp only [State.scan, Nat.forall_lt_succ_left, Nat.add_zero]
    split
    · rename_i h
      simp [h]
    · rename_i h
      simp only [ih, ringAt_nextPos_add hwf, ne_eq, h, not_false_eq_true, true_and, Nat.add_comm 1]

/-- The search for the next candidate finds nothing where no byte behind the last one's first is MAGIC (R153, R158). -/
theorem dfrPass_resume_of_no_magic {s : State} (n : Nat) (hw : Window s.cfg s.ring s.dfPush s.dfStart)
    (hpos : 1 ≤ s.avail) (hno : s.cfg.MAGIC ∉ (s.candBytes 0 s.avail).tail) :
    dfrPass s.resume n = ⟨s.resume.setDfLook s.dfPush, n, false⟩ := by
  have hdist : dist s.cfg (nextPos s.cfg s.dfStart) s.dfPush = s.avail - 1 := hw.dist_next (Nat.ne_of_gt hpos)
  have htail : (s.candBytes 0 s.avail).tail = s.candBytes 1 (s.avail - 1) := by
    have h := candBytes_add s 0 1 (s.avail - 1)
    rw [Nat.add_sub_cancel' hpos] at h
    rw [h]
    rfl
  have hscan : s.resume.scan (dist s.cfg (nextPos s.cfg s.dfStart) s.dfPush) (nextPos s.cfg s.dfStart) = none := by
    rw [scan_eq_none_iff (s := s.resume) hw.wf, hdist]
    intro j hj hmagic
    refine hno (htail ▸ List.mem_map.2 ⟨1 + j, List.mem_range'_1.2 ⟨by omega, by omega⟩, ?_⟩)
    exact (ringAt_nextPos_add hw.wf s.dfStart j).symm.trans hmagic
  exact (dfrPass_of_searching n rfl).trans (dfrSearch_of_scan_none n hscan)

/-! ## A run of DFR commands -/

/-- What the DFR command leaves (R150). -/
def State.pushByte (s : State) (b : Byte) : State :=
  let r := dfrLoop (dfrFuel s.cfg) (s.intake b) 0
  (r.st.setEmits (BitVec.ofNat 8 r.count)).succeed

theorem exec_dfr (b : Byte) (s : State) : exec (.dfr b) s = .next (s.pushByte b) := rfl

theorem runExec_dfr (bs : List Byte) (s : State) : runExec (bs.map .dfr) s = .next (bs.foldl State.pushByte s) := by
  induction bs generalizing s with
  | nil => rfl
  | cons b bs ih => exact ih (s.pushByte b)

theorem pushByte_ok {s : State} (hs : s.ok = true) (b : Byte) : (s.pushByte b).ok = true := execDfr_ok hs (exec_dfr b s)

theorem dfrLoop_of_stop {s t : State} {n m : Nat} (fuel : Nat) (h : dfrPass s n = ⟨t, m, false⟩) :
    dfrLoop (fuel + 1) s n = ⟨t, m, false⟩ := by
  simp [dfrLoop, h]

theorem dfrLoop_of_goOn {s t : State} {n m : Nat} (fuel : Nat) (h : dfrPass s n = ⟨t, m, true⟩) :
    dfrLoop (fuel + 1) s n = dfrLoop fuel t m := by
  simp [dfrLoop, h]

/-- A command whose first pass stops is that pass. -/
theorem pushByte_of_stop {s t : State} {b : Byte} (h : dfrPass (s.intake b) 0 = ⟨t, 0, false⟩) :
    s.pushByte b = (t.setEmits 0).succeed := by
  rw [State.pushByte, dfrFuel, dfrLoop_of_stop _ h]
  rfl

/-! ## The frame comes in -/

/-- From `s` the de-framer has taken in `l` and nothing was emitted: the pending candidate is `l`. -/
structure Received (s : State) (l : List Byte) (u : State) : Prop where
  ok : u.ok = true
  pending : u.dfState ≠ .searching
  bytes : u.candBytes 0 u.avail = l
  cfg : u.cfg = s.cfg
  dout : u.dout = s.dout

/-- Between commands a pending candidate has room for a byte more (R38). -/
theorem Candidate.of_ok {u : State} (hok : u.ok = true) (hst : u.dfState ≠ .searching) :
    Candidate u ∧ u.avail < u.cfg.N := by
  obtain ⟨hwf, _, _, hdf, _⟩ := u.ok_iff.1 hok
  have hN := four_le_N hwf
  cases h : u.dfState with
  | searching => exact absurd h hst
  | headerWait =>
    obtain ⟨hc, h2⟩ := (dfrOk_headerWait_iff hwf h).1 hdf
    exact ⟨hc, by omega⟩
  | bodyWait =>
    obtain ⟨hc, hh, _, hlt⟩ := (dfrOk_bodyWait_iff hwf h).1 hdf
    exact ⟨hc, hlt.trans_le (State.declared_le_of_headerOk hh)⟩

/-- A command whose first pass stops with `l` pending has received `l`. -/
theorem received_of_stop {s u v : State} {l : List Byte} {b : Byte} (hok : u.ok = true)
    (hpass : dfrPass (u.intake b) 0 = ⟨v, 0, false⟩) (hst : v.dfState ≠ .searching)
    (hbytes : v.candBytes 0 v.avail = l) (hcfg : v.cfg = s.cfg) (hdout : v.dout = s.dout) :
    Received s l (u.pushByte b) := by
  have hok' := pushByte_ok hok b
  rw [pushByte_of_stop hpass] at hok' ⊢
  exact ⟨hok', hst, hbytes, hcfg, hdout⟩

/-- MAGIC makes a de-framer that searches take the byte for a candidate's first (R153). -/
theorem received_magic {s : State} (hok : s.ok = true) (hst : s.dfState = .searching) :
    Received s [s.cfg.MAGIC] (s.pushByte s.cfg.MAGIC) := by
  obtain ⟨hwf, _, _, hdf, _⟩ := s.ok_iff.1 hok
  have hN := four_le_N hwf
  obtain ⟨hpush, hlook⟩ := (dfrOk_searching_iff hst).1 hdf
  have hw := Window.empty hwf s.ring hpush
  have hzero : (s.candidate s.dfPush).avail = 0 := dist_self hpush
  have hlt : (s.candidate s.dfPush).avail < s.cfg.N := by omega
  have havail := avail_intake (s := s.candidate s.dfPush) hw hlt s.cfg.MAGIC
  have hbytes := candBytes_intake (s := s.candidate s.dfPush) hw hlt s.cfg.MAGIC
  have hscan : (s.intake s.cfg.MAGIC).scan (dist s.cfg s.dfLook (nextPos s.cfg s.dfPush)) s.dfLook = some s.dfPush := by
    rw [hlook, hw.dist_push hlt]
    exact if_pos ((ringAt_intake s _ _).trans (if_pos rfl))
  have hsearch : dfrPass (s.intake s.cfg.MAGIC) 0 = dfrHeader ((s.candidate s.dfPush).intake s.cfg.MAGIC) 0 := by
    rw [dfrPass_of_searching 0 ((intake_dfState s _).trans hst), dfrSearch_of_scan_some 0 hscan, candidate_intake]
  refine received_of_stop hok (hsearch.trans (dfrHeader_of_avail_lt 0 ?_)) (by simp) ?_ (by simp) (by simp)
  · omega
  · rw [hbytes, hzero]
    rfl

/-- A further byte of a frame that is not yet its last one. -/
theorem Received.pushByte {s u : State} {p l : List Byte} {b : Byte} (h : Received s l u) (hN : p.length + 4 ≤ s.cfg.N)
    (hpre : l ++ [b] <+: frame s.cfg p) (hlt : (l ++ [b]).length < p.length + 4) :
    Received s (l ++ [b]) (u.pushByte b) := by
  obtain ⟨hok, hst, hbytes, hcfg, hdout⟩ := h
  obtain ⟨hwf, _, _, hdf, _⟩ := u.ok_iff.1 hok
  obtain ⟨hc, hroom⟩ := Candidate.of_ok hok hst
  have hbytes' : (u.intake b).candBytes 0 (u.intake b).avail = l ++ [b] :=
    hbytes ▸ candBytes_intake hc.window hroom b
  have havail : (u.intake b).avail = (l ++ [b]).length := by rw [← hbytes', length_candBytes]
  have hcfg' : (u.intake b).cfg = s.cfg := hcfg
  obtain ⟨v, hv, hpass⟩ := dfrPass_of_proper_prefix (s := u.intake b) (p := p) 0 (intake_inCommand hwf hdf b) hst hwf
    (by rwa [hcfg']) (by rwa [hbytes', hcfg']) (by rwa [havail])
  exact received_of_stop hok hpass hv hbytes' hcfg hdout

theorem Received.foldl_pushByte {s u : State} {p l : List Byte} (h : Received s l u) (hN : p.length + 4 ≤ s.cfg.N)
    (bs : List Byte) (hpre : l ++ bs <+: frame s.cfg p) (hlt : (l ++ bs).length < p.length + 4) :
    Received s (l ++ bs) (bs.foldl State.pushByte u) := by
  induction bs generalizing l u with
  | nil => rwa [List.append_nil]
  | cons b bs ih =>
    rw [List.append_cons] at hpre hlt ⊢
    refine ih (h.pushByte hN ((List.prefix_append _ _).trans hpre) ?_) hpre hlt
    rw [List.length_append] at hlt
    omega

/-- All bytes of a frame but the last are taken in and emit nothing. -/
theorem received_frameBody {s : State} {p : List Byte} (hok : s.ok = true) (hst : s.dfState = .searching)
    (hN : p.length + 4 ≤ s.cfg.N) :
    Received s (frameBody s.cfg p) ((frameBody s.cfg p).foldl State.pushByte s) :=
  (received_magic hok hst).foldl_pushByte hN _ (List.prefix_append _ _) (Nat.lt_succ_self _)

theorem DfrFrame.exists_dout_eq {s t : State} {k : Nat} (h : DfrFrame s t k) : ∃ new, t.dout = s.dout ++ new := by
  obtain ⟨new, _, _, ht⟩ := h
  exact ⟨new, by rw [ht]⟩

/-- The last byte of a frame emits the payload, and the command's later passes nothing when they find no MAGIC. -/
theorem Received.pushByte_last {s u : State} {p : List Byte} {b : Byte} (h : Received s (frameBody s.cfg p) u)
    (hN : p.length + 4 ≤ s.cfg.N) (hb : frameBody s.cfg p ++ [b] = frame s.cfg p) :
    ∃ rest, (u.pushByte b).dout = s.dout ++ [p] ++ rest ∧
      (s.cfg.MAGIC ∉ (frame s.cfg p).tail → rest = [] ∧ (u.pushByte b).dfState = .searching) := by
  obtain ⟨hok, hst, hbytes, hcfg, hdout⟩ := h
  obtain ⟨hwf, _⟩ := u.ok_iff.1 hok
  obtain ⟨hc, hroom⟩ := Candidate.of_ok hok hst
  obtain ⟨hc', _⟩ := hc.intake hroom b
  rw [← hcfg] at hbytes hN hb ⊢
  have hframe : (u.intake b).candBytes 0 (u.intake b).avail = frame u.cfg p := by
    rw [candBytes_intake hc.window hroom, hbytes, hb]
  have hloop : dfrLoop (dfrFuel u.cfg) (u.intake b) 0 =
      dfrLoop (2 * u.cfg.N + 1) ((u.intake b).emit p).resume 1 :=
    dfrLoop_of_goOn _ (dfrPass_of_frame (s := u.intake b) 0 hst hwf hN hframe)
  obtain ⟨_, _, hrest⟩ := dfrLoop_frame (2 * u.cfg.N + 1) ((u.intake b).emit p).resume 1
  obtain ⟨rest, hrest⟩ := hrest.exists_dout_eq
  have hpush : (u.pushByte b).dout = s.dout ++ [p] ++ rest := by
    rw [← hdout]
    exact (congrArg (·.st.dout) hloop).trans hrest
  refine ⟨rest, hpush, fun hno => ?_⟩
  have hstop := dfrLoop_of_stop (2 * u.cfg.N) (dfrPass_resume_of_no_magic (s := (u.intake b).emit p) 1 hc'.window
    hc'.avail_pos (hframe ▸ hno))
  refine ⟨?_, congrArg (·.st.dfState) (hloop.trans hstop)⟩
  rw [hstop] at hrest
  exact List.self_eq_append_right.1 hrest

/-- Settles O31: the bytes of the frame but its last are received one by one, and the last emits. -/
theorem deframerEmitsEncodedPayload : Obligations.DeframerEmitsEncodedPayload := by
  intro s p hok hst hN
  have hbody := received_frameBody hok hst hN
  obtain ⟨rest, hdout, hno⟩ := hbody.pushByte_last hN (frame_eq_body_append s.cfg p).symm
  refine ⟨_, _, rest, runExec_dfr _ s, ?_, runExec_dfr _ s, ?_⟩
  · rw [frame_eq_body_append, List.dropLast_concat]
    exact hbody.dout
  · rw [frame_eq_body_append, List.foldl_concat, ← frame_eq_body_append]
    exact ⟨hdout, hno⟩

end Sys2Proof.Machine
end

section
/-! PROOFS. The steps of the de-framer and the command made of them (O23 to O27; spec/43_deframer.md R150 to R158): the checks
of a candidate as the rules write them, one equation for each branch of a step, and the scan as a search for the least
position that holds MAGIC. -/

namespace Sys2Proof.Machine

/-! ## The checks of a candidate, as the rules write them -/

/-- The size bounds (R154, R155). -/
theorem State.sizeOk_iff (s : State) : s.sizeOk = true ↔ 3 ≤ s.declared ∧ s.declared ≤ s.cfg.N := by
  simp [State.sizeOk]

/-- The header check (R154). -/
theorem State.headerOk_iff (s : State) : s.headerOk = true ↔
    chk [s.candByte 0, s.candByte 1] 0 = s.candByte 2 ∧ 3 ≤ s.declared ∧ s.declared ≤ s.cfg.N := by
  simp [State.headerOk, State.sizeOk_iff]

theorem candBytes_eq_map_range (s : State) (a n : Nat) :
    s.candBytes a n = (List.range n).map fun k => s.candByte (a + k) := by
  rw [State.candBytes, List.range'_eq_map_range, List.map_map]
  rfl

/-- The trailing check (R156, R157). -/
theorem State.trailerOk_iff (s : State) : s.trailerOk = true ↔ 4 ≤ s.declared ∧
    chk ((List.range (s.declared - 1)).map s.candByte) (s.candByte 2) = s.candByte (s.declared - 1) := by
  simp [State.trailerOk, candBytes_eq_map_range]

/-- The payload (R156). -/
theorem State.payload_eq (s : State) :
    s.payload = (List.range (s.declared - 4)).map fun k => s.candByte (3 + k) :=
  candBytes_eq_map_range s 3 _

/-! ## The branches of HEADER_WAIT and BODY_WAIT that end a candidate -/

theorem dfrHeader_of_headerOk {s : State} (n : Nat) (h3 : 3 ≤ s.avail) (hh : s.headerOk = true) :
    dfrHeader s n = dfrBody (s.setDfState .bodyWait) n := by
  rw [dfrHeader, if_neg (Nat.not_lt.2 h3), if_pos hh]

theorem dfrHeader_of_not_headerOk {s : State} (n : Nat) (h3 : 3 ≤ s.avail) (hh : ¬ s.headerOk = true) :
    dfrHeader s n = ⟨s.setDfState .searching, n, true⟩ := by
  rw [dfrHeader, if_neg (Nat.not_lt.2 h3), if_neg hh]

theorem dfrBody_of_not_sizeOk {s : State} (n : Nat) (hle : s.declared ≤ s.avail) (hsize : ¬ s.sizeOk = true) :
    dfrBody s n = ⟨s.setDfState .searching, n, false⟩ := by
  simp [dfrBody, hsize, Nat.not_lt.2 hle]

theorem dfrBody_of_not_trailerOk {s : State} (n : Nat) (hle : s.declared ≤ s.avail) (hsize : s.sizeOk = true)
    (htrail : ¬ s.trailerOk = true) : dfrBody s n = ⟨s.resume, n, true⟩ := by
  simp [dfrBody, hsize, htrail, Nat.not_lt.2 hle]

/-- Settles O25: the three branches of the step. -/
theorem headerWaitChecksHeader : Obligations.HeaderWaitChecksHeader := by
  intro s n
  refine ⟨dfrHeader_of_avail_lt n, fun h3 hchk hmin hmax => ?valid, fun h3 hbad => ?invalid⟩
  case valid => exact dfrHeader_of_headerOk n h3 (s.headerOk_iff.2 ⟨hchk, hmin, hmax⟩)
  case invalid => exact dfrHeader_of_not_headerOk n h3 (mt s.headerOk_iff.1 hbad)

/-- Settles O26: the four branches of the step. -/
theorem bodyWaitChecksTrailer : Obligations.BodyWaitChecksTrailer := by
  rintro s n _ rfl
  have hsize (h4 : 4 ≤ s.declared) (hN : s.declared ≤ s.cfg.N) : s.sizeOk = true := s.sizeOk_iff.2 ⟨by omega, hN⟩
  refine ⟨dfrBody_of_avail_lt n, fun hle hbad => ?bounds, fun hle h4 hN hchk => ?good, fun hle h4 hN hchk => ?bad⟩
  case bounds => exact dfrBody_of_not_sizeOk n hle (mt s.sizeOk_iff.1 hbad)
  case good =>
    rw [dfrBody_of_trailerOk n hle (hsize h4 hN) (s.trailerOk_iff.2 ⟨h4, hchk⟩), State.payload_eq]
    rfl
  case bad => exact dfrBody_of_not_trailerOk n hle (hsize h4 hN) fun htrail => hchk (s.trailerOk_iff.1 htrail).2

/-- Settles O27: 3 is within the size bounds, and the trailing check asks for 4. -/
theorem declaredSizeThreeNeverEmits : Obligations.DeclaredSizeThreeNeverEmits := by
  intro s n hwf (hdecl : s.declared = 3) h3
  have hN := four_le_N hwf
  have hbounds : 3 ≤ s.declared ∧ s.declared ≤ s.cfg.N := ⟨hdecl.ge, hdecl.trans_le (by omega)⟩
  have htrail : ¬ s.trailerOk = true := fun h => by
    have h4 := (s.trailerOk_iff.1 h).1
    omega
  have hbody : dfrBody s n = ⟨s.resume, n, true⟩ :=
    dfrBody_of_not_trailerOk n (hdecl.trans_le h3) (s.sizeOk_iff.2 hbounds) htrail
  refine ⟨s.headerOk_iff.trans (and_iff_left hbounds), hbody, fun hlook => ?_⟩
  rw [hbody, resume_eq, ← hlook]

/-! ## The scan of SEARCHING -/

/-- `d(a, b)` of R150, for a position `a` in range. -/
theorem dist_eq_mod {c : Params} {a : Byte} (b : Byte) (ha : a.toNat < 2 * c.N) :
    dist c a b = (b.toNat + 2 * c.N - a.toNat) % (2 * c.N) := by
  rw [dist, Params.pmod, Nat.mod_eq_of_lt ha, ← Nat.add_sub_assoc ha.le]

/-- Stepping first and then `j` further, modulo 2N. -/
theorem nextPos_add_mod {c : Params} (hwf : c.wf = true) (p : Byte) (j : Nat) :
    ((nextPos c p).toNat + j) % (2 * c.N) = (p.toNat + (j + 1)) % (2 * c.N) := by
  rw [toNat_nextPos hwf, Params.pmod, Nat.mod_add_mod, Nat.add_assoc, Nat.add_comm 1 j]

/-- The scan of R153 finds the least position it visits that holds MAGIC. -/
theorem scan_eq_some_iff {s : State} (hwf : s.cfg.wf = true) (k : Nat) (p q : Byte) (hp : p.toNat < 2 * s.cfg.N) :
    s.scan k p = some q ↔ ∃ j, j < k ∧ q.toNat = (p.toNat + j) % (2 * s.cfg.N) ∧
      s.ringAt (p.toNat + j) = s.cfg.MAGIC ∧ ∀ i, i < j → s.ringAt (p.toNat + i) ≠ s.cfg.MAGIC := by
  induction k generalizing p with
  | zero => simp [State.scan]
  | succ k ih =>
    have hnext : (nextPos s.cfg p).toNat < 2 * s.cfg.N := nextPos_lt hwf p
    simp only [State.scan, Nat.exists_lt_succ_left, Nat.forall_lt_succ_left, Nat.add_zero, Nat.mod_eq_of_lt hp]
    split
    · rename_i h
      simp [h, BitVec.toNat_inj, eq_comm]
    · rename_i h
      simp [ih _ hnext, ringAt_nextPos_add hwf, nextPos_add_mod hwf, h, Nat.add_comm 1]

/-- Settles O23: the scan by its two `iff`s, and the step by which of them the scan from `df_look` meets. -/
theorem scanStopsAtFirstMagic : Obligations.ScanStopsAtFirstMagic := by
  intro s k p hwf hp
  refine ⟨fun q => scan_eq_some_iff hwf k p q hp, scan_eq_none_iff hwf k p, fun hlook _ n => ?_⟩
  rw [← dist_eq_mod s.dfPush hlook]
  refine ⟨fun q j hj hq hmagic hfirst => ?found, fun hnone => ?none⟩
  case found =>
    exact dfrSearch_of_scan_some n ((scan_eq_some_iff hwf _ _ q hlook).2 ⟨j, hj, hq, hmagic, hfirst⟩)
  case none => exact dfrSearch_of_scan_none n ((scan_eq_none_iff hwf _ _).2 hnone)

/-! ## The command -/

theorem dfrPass_of_headerWait {s : State} (n : Nat) (hst : s.dfState = .headerWait) : dfrPass s n = dfrHeader s n := by
  rw [dfrPass, hst]

theorem dfrPass_of_bodyWait {s : State} (n : Nat) (hst : s.dfState = .bodyWait) : dfrPass s n = dfrBody s n := by
  rw [dfrPass, hst]

theorem dfrLoop_succ_of_again {s : State} {n : Nat} (f : Nat) (h : (dfrPass s n).again = true) :
    dfrLoop (f + 1) s n = dfrLoop f (dfrPass s n).st (dfrPass s n).count := if_pos h

theorem dfrLoop_succ_of_not_again {s : State} {n : Nat} (f : Nat) (h : (dfrPass s n).again = false) :
    dfrLoop (f + 1) s n = dfrPass s n := if_neg (by simp [h])

/-- Settles O24: each clause is one equation: of a position or a distance, of a pass, of the loop, or of the command. -/
theorem dfrCommandRunsThePasses : Obligations.DfrCommandRunsThePasses := by
  refine ⟨fun c p hwf => toNat_nextPos hwf p, fun c a b _ ha => dist_eq_mod b ha, fun s => rfl, fun s k => rfl,
    fun s n => ⟨dfrPass_of_searching n, dfrPass_of_headerWait n, dfrPass_of_bodyWait n⟩,
    fun f s n => ⟨dfrLoop_succ_of_again f, dfrLoop_succ_of_not_again f⟩, ?command⟩
  case command =>
    rintro b s _ rfl
    exact exec_dfr b s

end Sys2Proof.Machine
end

section
/-! PROOFS. The loop of a DFR command ends by itself (O28, O29; spec/43_deframer.md R152, R159). If every pass that goes on
makes a measure smaller, an allowance above the measure is never used up. The invariant gives the measure `work`, which is at
most `N`; positions in range alone give `roughWork`, which is at most `2N`. -/

namespace Sys2Proof.Machine

/-- `inv` holds before every pass, and a pass that goes on keeps it and makes `μ` smaller. -/
def DecreasedByPass (inv : State → Prop) (μ : State → Nat) : Prop :=
  ∀ s n, inv s → (dfrPass s n).again = true → inv (dfrPass s n).st ∧ μ (dfrPass s n).st < μ s

/-- An allowance of passes above such a measure is never used up: a larger one gives the same answer. -/
theorem dfrLoop_eq_of_measure_lt {inv : State → Prop} {μ : State → Nat} (hdec : DecreasedByPass inv μ) {f m : Nat}
    {s : State} (n : Nat) (hinv : inv s) (hf : μ s < f) (hm : f ≤ m) : dfrLoop m s n = dfrLoop f s n := by
  induction f generalizing m s n with
  | zero => omega
  | succ f ih =>
    obtain ⟨m, rfl⟩ : ∃ m', m = m' + 1 := ⟨m - 1, by omega⟩
    cases hagain : (dfrPass s n).again with
    | false => rw [dfrLoop_succ_of_not_again m hagain, dfrLoop_succ_of_not_again f hagain]
    | true =>
      obtain ⟨hinv', hlt⟩ := hdec s n hinv hagain
      rw [dfrLoop_succ_of_again m hagain, dfrLoop_succ_of_again f hagain]
      exact ih _ hinv' (by omega) (by omega)

/-! ## From a sound state -/

theorem inCommand_decreasedByPass : DecreasedByPass InCommand State.work := by
  intro s n hin hagain
  cases dfrPass_end n hin with
  | stop again => simp [hagain] at again
  | goOn _ inv work => exact ⟨inv, work⟩

/-- Settles O28: the loop starts with at most `N` bytes to look at. -/
theorem dfrLoopRunsAtMostNPlusOneTimes : Obligations.DfrLoopRunsAtMostNPlusOneTimes := by
  intro b s m hs hm
  obtain ⟨hwf, _, _, hdf, _⟩ := s.ok_iff.1 hs
  have hin := intake_inCommand hwf hdf b
  exact dfrLoop_eq_of_measure_lt inCommand_decreasedByPass 0 hin (Nat.lt_succ_of_le hin.work_le) hm

/-! ## From any state whose positions are in range -/

/-- The positions a search still has to visit; a pending candidate may lead to a search of any length. -/
def State.roughWork (s : State) : Nat :=
  if s.dfState = .searching then dist s.cfg s.dfLook s.dfPush else Params.pmod s.cfg

/-- `t` searches from `look` up to `push`. -/
structure SearchesFrom (c : Params) (push look : Byte) (t : State) : Prop where
  cfg : t.cfg = c
  push : t.dfPush = push
  state : t.dfState = .searching
  look : t.dfLook = look

theorem SearchesFrom.posOk {c : Params} {push look : Byte} {t : State} (h : SearchesFrom c push look t)
    (hpush : push.toNat < Params.pmod c) (hlook : look.toNat < Params.pmod c) : t.posOk = true := by
  obtain ⟨rfl, rfl, hstate, rfl⟩ := h
  exact t.posOk_iff.2 ⟨hpush, hlook, .inl hstate⟩

theorem SearchesFrom.roughWork_eq {c : Params} {push look : Byte} {t : State} (h : SearchesFrom c push look t) :
    t.roughWork = dist c look push := by
  obtain ⟨rfl, rfl, hstate, rfl⟩ := h
  exact if_pos hstate

/-- A completed candidate is searched past: from `df_start + 1` (R158). -/
theorem dfrBody_searches {s : State} {n : Nat} (h : (dfrBody s n).again = true) :
    SearchesFrom s.cfg s.dfPush (nextPos s.cfg s.dfStart) (dfrBody s n).st := by
  rcases dfrBody_cases s n with ⟨_, he⟩ | ⟨_, _, he⟩ | ⟨_, _, _, he⟩ | ⟨_, _, _, he⟩ <;> rw [he] at h ⊢
  · cases h
  · cases h
  · exact ⟨rfl, rfl, rfl, rfl⟩
  · exact ⟨rfl, rfl, rfl, rfl⟩

/-- After a header failure the search goes on from `df_look` (R154), after a completed candidate from `df_start + 1`. -/
theorem dfrHeader_searches {s : State} {n : Nat} (h : (dfrHeader s n).again = true) :
    ∃ look, (look = s.dfLook ∨ look = nextPos s.cfg s.dfStart) ∧
      SearchesFrom s.cfg s.dfPush look (dfrHeader s n).st := by
  rcases dfrHeader_cases s n with ⟨_, he⟩ | ⟨_, _, he⟩ | ⟨_, _, he⟩ <;> rw [he] at h ⊢
  · cases h
  · exact ⟨_, .inr rfl, dfrBody_searches h⟩
  · exact ⟨_, .inl rfl, rfl, rfl, rfl, rfl⟩

/-- The search past the position the scan stops at is shorter. -/
theorem dist_nextPos_lt_of_scan {s : State} {k : Nat} {p q : Byte} (hwf : s.cfg.wf = true)
    (hpush : s.dfPush.toNat < Params.pmod s.cfg) (hp : p.toNat < Params.pmod s.cfg) (hk : dist s.cfg p s.dfPush = k)
    (hq : s.scan k p = some q) : dist s.cfg (nextPos s.cfg q) s.dfPush < k := by
  induction k generalizing p with
  | zero => cases hq
  | succ k ih =>
    have hnext := dist_nextPos_left hwf p s.dfPush hp hpush (by omega)
    simp only [State.scan] at hq
    split at hq
    · cases hq
      omega
    · have := ih (nextPos_lt hwf p) (by omega) hq
      omega

/-- Every pass that goes on leaves a search, and a shorter one than it found. -/
theorem dfrPass_searches {s : State} {n : Nat} (hwf : s.cfg.wf = true) (hpos : s.posOk = true)
    (h : (dfrPass s n).again = true) : ∃ look, look.toNat < Params.pmod s.cfg ∧
      dist s.cfg look s.dfPush < s.roughWork ∧ SearchesFrom s.cfg s.dfPush look (dfrPass s n).st := by
  obtain ⟨hpush, hlook, _⟩ := s.posOk_iff.1 hpos
  have hpending (hst : s.dfState ≠ .searching) (look : Byte) : dist s.cfg look s.dfPush < s.roughWork :=
    (dist_lt hwf look s.dfPush).trans_eq (if_neg hst).symm
  cases hst : s.dfState with
  | searching =>
    rw [dfrPass_of_searching n hst] at h ⊢
    rcases dfrSearch_cases s n with ⟨q, hq, he⟩ | ⟨_, he⟩ <;> rw [he] at h ⊢
    · obtain ⟨look, hl, hsearch⟩ := dfrHeader_searches h
      obtain rfl : look = nextPos s.cfg q := hl.elim id id
      have hlt := dist_nextPos_lt_of_scan hwf hpush hlook rfl hq
      exact ⟨_, nextPos_lt hwf q, hlt.trans_eq (if_pos hst).symm, hsearch⟩
    · cases h
  | headerWait =>
    rw [dfrPass_of_headerWait n hst] at h ⊢
    obtain ⟨look, hl, hsearch⟩ := dfrHeader_searches h
    refine ⟨look, ?_, hpending (by simp [hst]) look, hsearch⟩
    rcases hl with rfl | rfl
    · exact hlook
    · exact nextPos_lt hwf _
  | bodyWait =>
    rw [dfrPass_of_bodyWait n hst] at h ⊢
    exact ⟨_, nextPos_lt hwf _, hpending (by simp [hst]) _, dfrBody_searches h⟩

theorem posOk_decreasedByPass : DecreasedByPass (fun s => s.cfg.wf = true ∧ s.posOk = true) State.roughWork := by
  rintro s n ⟨hwf, hpos⟩ hagain
  obtain ⟨hpush, _⟩ := s.posOk_iff.1 hpos
  obtain ⟨look, hlook, hlt, hsearch⟩ := dfrPass_searches hwf hpos hagain
  exact ⟨⟨hsearch.cfg ▸ hwf, hsearch.posOk hpush hlook⟩, hsearch.roughWork_eq.trans_lt hlt⟩

theorem State.roughWork_le {s : State} (hwf : s.cfg.wf = true) : s.roughWork ≤ Params.pmod s.cfg := by
  unfold roughWork
  split
  · exact (dist_lt hwf _ _).le
  · exact le_rfl

/-- Settles O29: the intake keeps the positions in range, and the allowance of `2N + 2` is above any `roughWork`. -/
theorem dfrFuelNeverRunsOut : Obligations.DfrFuelNeverRunsOut := by
  intro b s m hwf hpos hm
  obtain ⟨_, hlook, hstart⟩ := s.posOk_iff.1 hpos
  have hpos' : (s.intake b).posOk = true := (State.posOk_iff _).2 ⟨nextPos_lt hwf _, hlook, hstart⟩
  have hle : (s.intake b).roughWork ≤ Params.pmod s.cfg := State.roughWork_le hwf
  refine dfrLoop_eq_of_measure_lt posOk_decreasedByPass 0 ⟨hwf, hpos'⟩ (hle.trans_lt ?_) hm
  unfold dfrFuel Params.pmod
  omega

end Sys2Proof.Machine
end

section
/-! PROOFS. What a DFR command leaves (O21, O22, O30; spec/43_deframer.md R150, R151, R154, R155, R160, R161): the intake and
the frame of the loop together, and the commands that only take their byte in. -/

namespace Sys2Proof.Machine

theorem pushByte_eq (s : State) (b : Byte) : s.pushByte b =
    ((dfrLoop (dfrFuel s.cfg) (s.intake b) 0).st.setEmits
      (BitVec.ofNat 8 (dfrLoop (dfrFuel s.cfg) (s.intake b) 0).count)).succeed := rfl

/-- The intake, then the frame of the loop with as many datagrams as it counted (R150, R160). -/
theorem exists_pushByte_eq (s : State) (b : Byte) : ∃ new : List (List Byte),
    (dfrLoop (dfrFuel s.cfg) (s.intake b) 0).count = new.length ∧
    s.pushByte b = { s.intake b with
      dout := s.dout ++ new, emits := BitVec.ofNat 8 new.length, err := 0, dfState := (s.pushByte b).dfState,
      dfLook := (s.pushByte b).dfLook, dfStart := (s.pushByte b).dfStart } := by
  obtain ⟨_, hcount, new, rfl, _, hst⟩ := dfrLoop_frame (dfrFuel s.cfg) (s.intake b) 0
  rw [Nat.zero_add] at hcount
  refine ⟨new, hcount, ?_⟩
  rw [pushByte_eq, hcount, hst]
  rfl

/-- Settles O21: the command as the intake and the frame of the loop. -/
theorem dfrCompletesWithinItsFrame : Obligations.DfrCompletesWithinItsFrame := by
  refine ⟨decode_packWord_dfr, fun b s hwf => ?_⟩
  obtain ⟨new, _, heq⟩ := exists_pushByte_eq s b
  refine ⟨s.pushByte b, new, exec_dfr b s, ?push, fun p => ?ring, ?dout, ?emits, ?rest⟩ <;> rw [heq]
  case push => exact toNat_nextPos hwf s.dfPush
  case ring => exact ringAt_intake s b p
  case rest => rfl

/-- In a sound state a DFR command emits at most `N - 3` datagrams (R160). -/
theorem dfrLoop_count_le {s : State} (hs : s.ok = true) (b : Byte) :
    (dfrLoop (dfrFuel s.cfg) (s.intake b) 0).count ≤ s.cfg.N - 3 := by
  obtain ⟨hwf, _, _, hdf, _⟩ := s.ok_iff.1 hs
  have hin := intake_inCommand hwf hdf b
  have hwork : (s.intake b).work ≤ s.cfg.N := hin.work_le
  obtain ⟨_, hcount⟩ := dfrLoop_end (fuel := dfrFuel s.cfg) 0 hin (by unfold dfrFuel; omega)
  omega

/-- Settles O30: EMITS is the count of the loop, small enough for its 8 bits, and the rest is the frame of the other commands
and of an illegal word. -/
theorem emitsCountsDatagrams : Obligations.EmitsCountsDatagrams := by
  refine ⟨fun b s t hs h => ?dfr, fun i s t hi h => ?other, fun w s t hw h => ?illegal⟩
  case dfr =>
    rw [exec_dfr] at h
    cases h
    have hN := N_le_127 (s.ok_iff.1 hs).1
    have hle := dfrLoop_count_le hs b
    obtain ⟨new, hcount, heq⟩ := exists_pushByte_eq s b
    have hdout : (s.pushByte b).dout = s.dout ++ new := by rw [heq]
    have hemits : (s.pushByte b).emits.toNat = new.length := by
      rw [heq]
      exact toNat_ofNat_of_lt (by omega)
    rw [hdout, hemits, List.length_append]
    exact ⟨rfl, hcount ▸ hle⟩
  case other =>
    obtain ⟨_, _, _, hdeframer⟩ := commandsWriteOnlyTheirState i s t h
    obtain ⟨_, _, hemits, _⟩ := hdeframer hi
    exact hemits
  case illegal =>
    rw [runWord_of_not_decode hw] at h
    cases h
    rfl

/-! ## A candidate that still waits -/

/-- A command whose first pass finds nothing to do only takes its byte in. -/
theorem exec_dfr_of_waits {s : State} {b : Byte} (h : dfrPass (s.intake b) 0 = ⟨s.intake b, 0, false⟩) :
    exec (.dfr b) s = .next { s with
      ring := s.ring.set (s.dfPush.toNat % s.cfg.N) b, dfPush := nextPos s.cfg s.dfPush, emits := 0, err := 0 } := by
  rw [exec_dfr, pushByte_of_stop h]
  rfl

/-- Settles O22: in both states the candidate grows by one byte, and the pass finds it too short. -/
theorem pendingCandidateOnlyWaits : Obligations.PendingCandidateOnlyWaits := by
  intro b s hs hwaits
  obtain ⟨hc, hroom⟩ := Candidate.of_ok hs (by rcases hwaits with ⟨hst, _⟩ | ⟨hst, _⟩ <;> simp [hst])
  rcases hwaits with ⟨hst, hshort⟩ | ⟨hst, hshort⟩
  · have hlt : (s.intake b).avail < 3 := (avail_intake hc.window hroom b).trans_lt hshort
    refine exec_dfr_of_waits ?_
    rw [dfrPass_of_headerWait 0 ((intake_dfState s b).trans hst), dfrHeader_of_avail_lt 0 hlt]
  · obtain ⟨hwf, _, _, hdf, _⟩ := s.ok_iff.1 hs
    obtain ⟨_, _, h3, _⟩ := (dfrOk_bodyWait_iff hwf hst).1 hdf
    have hdecl : (s.intake b).declared = s.declared :=
      congrArg BitVec.toNat (candByte_intake hc.window hroom b (k := 1) (by omega))
    have hlt : (s.intake b).avail < (s.intake b).declared := by
      rwa [avail_intake hc.window hroom, hdecl]
    refine exec_dfr_of_waits ?_
    rw [dfrPass_of_bodyWait 0 ((intake_dfState s b).trans hst), dfrBody_of_avail_lt 0 hlt]

end Sys2Proof.Machine
end

section
/-! PROOFS. The system commands and the step that runs a command (O6, O7, O10; spec/44_system.md R180, R181, R183). -/

namespace Sys2Proof

/-- The legal words are those R83 does not exclude: the opcodes 0 to 5 under a zero reserved field. -/
theorem exists_decode_ok_iff (w : Word) : (∃ i, decode w = .ok i) ↔ rsvField w = 0 ∧ (opField w).toNat < 6 := by
  constructor
  · rintro ⟨i, hi⟩
    refine ⟨by_contra fun hrsv => ?_, not_le.1 fun hop => ?_⟩
    · cases hi.symm.trans (decode_of_rsvField_ne_zero hrsv)
    · obtain ⟨r, hr⟩ := exists_decode_error_of_six_le_opField hop
      cases hi.symm.trans hr
  · rintro ⟨hrsv, hop⟩
    rw [decode, if_neg (not_not.2 hrsv)]
    interval_cases (opField w).toNat <;> exact ⟨_, rfl⟩

end Sys2Proof

namespace Sys2Proof.Machine

/-- Settles O6: a word is illegal exactly when it decodes to no command. -/
theorem illegalWordOnlySetsErr : Obligations.IllegalWordOnlySetsErr := by
  refine fun w s => ⟨fun hbad => ?illegal, fun hgood => ?legal⟩
  case illegal =>
    refine runWord_of_not_decode (fun i hi => ?_) s
    obtain ⟨hrsv, hop⟩ := (exists_decode_ok_iff w).1 ⟨i, hi⟩
    exact hbad.elim (· hrsv) hop.not_ge
  case legal =>
    obtain ⟨hrsv, hop⟩ := not_or.1 hgood
    obtain ⟨i, hi⟩ := (exists_decode_ok_iff w).2 ⟨not_not.1 hrsv, not_le.1 hop⟩
    exact ⟨i, hi, runWord_of_decode hi s⟩

/-- A step that finds a CMD write, out of reset, runs the word written (R183). -/
theorem step_of_cmdWrite {s : State} {v : HostValue} {rest : List HostEvent} (hr : s.inReset = false)
    (hh : s.host = .write 4 0x300 v :: rest) : step s = runWord (s.hostValue v) (s.setHost rest) := by
  rw [step_of_write hr hh, hostWrite, if_pos ⟨rfl, rfl⟩]

/-- Settles O7: the word the step runs is a command's or an illegal one. -/
theorem stepRunsDecodedCommand : Obligations.StepRunsDecodedCommand := by
  refine fun s v rest hr hh => ⟨fun i hi _ => ?legal, fun r herr => ?illegal⟩
  case legal =>
    rw [step_of_cmdWrite hr hh, runWord_of_decode hi]
    rfl
  case illegal =>
    have hno : ∀ i, decode (s.hostValue v) ≠ .ok i := by simp [herr]
    rw [step_of_cmdWrite hr hh, runWord_of_not_decode hno]
    rfl

/-- What NOP leaves (R180). -/
theorem exec_nop (s : State) : exec .nop s = .next { s with err := 0 } := by
  rw [exec, execNop, State.succeed_eq]

/-- Settles O10: the decoder's NOP row for every operand byte, and what NOP leaves. -/
theorem nopOnlyClearsErr : Obligations.NopOnlyClearsErr := ⟨decode_packWord_nop, exec_nop⟩

end Sys2Proof.Machine
end

section
/-! PROOFS. The outcome a command word reports (O36; spec/60_exceptions.md R191, spec/44_system.md R184): it completes with
ERR 0, fails for want of capacity, or is illegal. -/

namespace Sys2Proof.Machine

/-- A command that takes `s` to `t` reports `code` in ERR, and a failure changed no more than R191 lets it change. -/
def ReportsOutcome (s t : State) (code : BitVec 2) : Prop :=
  t.err = code ∧ t.err ≠ 3 ∧ (t.err = 1 → t.result = 0 ∧ t = { s with result := 0, err := 1 }) ∧
    (t.err = 2 → t.result = s.result ∧ t = { s with err := 2 })

theorem reportsOutcome_of_success (s : State) {t : State} {code : BitVec 2} (ht : t.err = 0) (hcode : code = 0) :
    ReportsOutcome s t code := by
  simp [ReportsOutcome, ht, hcode]

theorem reportsOutcome_of_failCapacity (s : State) {code : BitVec 2} (hcode : code = 1) :
    ReportsOutcome s { s with result := 0, err := 1 } code := by
  simp [ReportsOutcome, hcode]

theorem reportsOutcome_of_illegal (s : State) : ReportsOutcome s { s with err := 2 } 2 := by
  simp [ReportsOutcome]

theorem reportsOutcome_senc {len cap : Byte} {s t : State} (h : exec (.senc len cap) s = .next t) :
    ReportsOutcome s t (if cap.toNat < 2 * len.toNat + 2 then 1 else 0) := by
  by_cases hcap : cap.toNat < 2 * len.toNat + 2
  · rw [exec_senc_of_not_fits hcap] at h
    cases h
    exact reportsOutcome_of_failCapacity s (if_pos hcap)
  · rw [exec_senc_of_fits (not_lt.1 hcap)] at h
    cases h
    exact reportsOutcome_of_success s rfl (if_neg hcap)

theorem reportsOutcome_fenc {len cap : Byte} {s t : State} (h : exec (.fenc len cap) s = .next t) :
    ReportsOutcome s t (if s.cfg.N < len.toNat + 4 ∨ cap.toNat < len.toNat + 4 then 1 else 0) := by
  by_cases hcap : s.cfg.N < len.toNat + 4 ∨ cap.toNat < len.toNat + 4
  · rw [exec_fenc_of_not_fits hcap] at h
    cases h
    exact reportsOutcome_of_failCapacity s (if_pos hcap)
  · obtain ⟨hN, hlen⟩ := not_or.1 hcap
    rw [exec_fenc_of_fits (not_lt.1 hN) (not_lt.1 hlen)] at h
    cases h
    exact reportsOutcome_of_success s rfl (if_neg hcap)

/-- Settles O36: by the word's decoding; SENC and FENC by their capacity checks, the other commands always succeed. -/
theorem errReportsOutcome : Obligations.ErrReportsOutcome := by
  intro w s t h
  cases hw : decode w with
  | error r =>
    rw [runWord_of_not_decode (by simp [hw])] at h
    cases h
    exact reportsOutcome_of_illegal s
  | ok i =>
    rw [runWord_of_decode hw] at h
    cases i with
    | nop => cases h; exact reportsOutcome_of_success s rfl rfl
    | chk seed len off => cases h; exact reportsOutcome_of_success s rfl rfl
    | senc len cap => exact reportsOutcome_senc h
    | sdec b => cases h; exact reportsOutcome_of_success s rfl rfl
    | fenc len cap => exact reportsOutcome_fenc h
    | dfr b => cases h; exact reportsOutcome_of_success s rfl rfl

end Sys2Proof.Machine
end

section
/-! PROOFS. Every command runs to its end, and so does every step but a host access under reset (O8, O9;
spec/60_exceptions.md R190, R202, spec/70_reset_and_hazards.md R211, R222). -/

namespace Sys2Proof.Machine

/-- Every command answers a next state (R190). -/
theorem exists_exec_eq_next (i : Instr) (s : State) : ∃ t, exec i s = .next t := by
  cases i with
  | nop => exact ⟨_, exec_nop s⟩
  | chk seed len off => exact ⟨_, exec_chk seed len off s⟩
  | senc len cap =>
    rcases Nat.lt_or_ge cap.toNat (2 * len.toNat + 2) with hcap | hcap
    · exact ⟨_, exec_senc_of_not_fits hcap s⟩
    · exact ⟨_, exec_senc_of_fits hcap s⟩
  | sdec b => exact ⟨_, exec_sdec b s⟩
  | fenc len cap =>
    by_cases hcap : s.cfg.N < len.toNat + 4 ∨ cap.toNat < len.toNat + 4
    · exact ⟨_, exec_fenc_of_not_fits hcap⟩
    · obtain ⟨hN, hlen⟩ := not_or.1 hcap
      exact ⟨_, exec_fenc_of_fits (not_lt.1 hN) (not_lt.1 hlen)⟩
  | dfr b => exact ⟨_, exec_dfr b s⟩

/-- A command word runs a command, or it is illegal and only sets ERR (R181, R183). -/
theorem runWord_cases (w : Word) (s : State) :
    (∃ i, runWord w s = exec i s) ∨ runWord w s = .next { s with err := 2 } := by
  cases hw : decode w with
  | error r => exact .inr (runWord_of_not_decode (by simp [hw]) s)
  | ok i => exact .inl ⟨i, runWord_of_decode hw s⟩

theorem exists_runWord_eq_next (w : Word) (s : State) : ∃ t, runWord w s = .next t := by
  rcases runWord_cases w s with ⟨i, he⟩ | he <;> rw [he]
  · exact exists_exec_eq_next i s
  · exact ⟨_, rfl⟩

theorem exists_hostWrite_eq_next (n : Nat) (a : Addr) (v : Word) (s : State) : ∃ t, hostWrite n a v s = .next t := by
  rcases hostWrite_cases n a v s with ⟨_, _, he⟩ | ⟨_, _, he⟩ | ⟨_, _, he⟩ <;> rw [he]
  · exact exists_runWord_eq_next v s
  · exact ⟨_, rfl⟩
  · exact ⟨_, rfl⟩

/-- An event at the host port completes, unless it is an access while reset is asserted, which is refused (R211). -/
theorem perform_completes_or_refused (e : HostEvent) (s : State) :
    (∃ t, perform e s = .next t) ∨ (s.inReset = true ∧ perform e s = .refused .hostAccessDuringReset) := by
  cases e with
  | assertReset => exact .inl ⟨_, rfl⟩
  | releaseReset => cases hr : s.inReset <;> simp [perform, hr]
  | read n a => cases hr : s.inReset <;> simp [perform, hr]
  | write n a v =>
    cases hr : s.inReset with
    | false =>
      obtain ⟨t, ht⟩ := exists_hostWrite_eq_next n a (s.hostValue v) s
      exact .inl ⟨t, by rw [perform, hr, cond_false, ht]⟩
    | true => exact .inr ⟨rfl, by rw [perform, hr, cond_true]⟩

/-- With no event left the step holds the state (R202, R222). -/
theorem step_of_host_nil {s : State} (hh : s.host = []) : step s = .next s := by
  rw [step, hostStep, hh]

theorem step_of_host_cons {s : State} {e : HostEvent} {rest : List HostEvent} (hh : s.host = e :: rest) :
    step s = perform e (s.setHost rest) := by
  rw [step, hostStep, hh]

theorem step_completes_or_refused (s : State) :
    (∃ t, step s = .next t) ∨ (s.inReset = true ∧ step s = .refused .hostAccessDuringReset) := by
  cases hh : s.host with
  | nil => exact .inl ⟨s, step_of_host_nil hh⟩
  | cons e rest =>
    rw [step_of_host_cons hh]
    exact perform_completes_or_refused e (s.setHost rest)

/-- Settles O8: the commands one by one, and a step by whether it completes or is refused. -/
theorem everyCommandCompletes : Obligations.EveryCommandCompletes := by
  refine ⟨exists_exec_eq_next, fun s hr => ?running, fun s r h => ?refused⟩
  case running =>
    refine (step_completes_or_refused s).resolve_right fun ⟨hreset, _⟩ => ?_
    cases hr.symm.trans hreset
  case refused =>
    rcases step_completes_or_refused s with ⟨t, ht⟩ | ⟨hreset, href⟩
    · cases h.symm.trans ht
    · cases h.symm.trans href
      exact ⟨hreset, rfl⟩

/-- Settles O9: the step finds no event. -/
theorem idleBlockHoldsState : Obligations.IdleBlockHoldsState := fun _ => step_of_host_nil

end Sys2Proof.Machine
end

section
/-! PROOFS. A system right after reset, and whose draw its unwritten bytes hold (O48; spec/60_exceptions.md R200,
spec/20_memory.md R63): no event of a block changes which instance its draw belongs to. -/

namespace Sys2Proof.Machine

/-! ## Right after reset -/

/-- The invariant reads no unwritten byte when there is no candidate, so it does not depend on the draw. -/
theorem ok_resetInstance (k : Nat) {c : Params} (hwf : c.wf = true) : (State.resetInstance k c).ok = true :=
  State.ok_resetWith hwf

theorem draw_inst_of_getElem?_resetSystem {cs : List Params} {k : Nat} {s : State}
    (h : (resetSystem cs)[k]? = some s) : s.draw.inst = k := by
  rw [getElem?_resetSystem, Option.map_eq_some_iff] at h
  obtain ⟨c, _, rfl⟩ := h
  rfl

/-! ## The draw along the steps -/

theorem exec_draw {i : Instr} {s t : State} (h : exec i s = .next t) : t.draw = s.draw := by
  obtain ⟨⟨_, _, _, _, _, hdraw⟩, _⟩ := commandsWriteOnlyTheirState i s t h
  exact hdraw

theorem runWord_draw {w : Word} {s t : State} (h : runWord w s = .next t) : t.draw = s.draw := by
  rcases runWord_cases w s with ⟨i, he⟩ | he <;> rw [he] at h
  · exact exec_draw h
  · cases h
    rfl

theorem hostWrite_draw {n : Nat} {a : Addr} {v : Word} {s t : State} (h : hostWrite n a v s = .next t) :
    t.draw = s.draw := by
  rcases hostWrite_cases n a v s with ⟨_, _, he⟩ | ⟨_, _, he⟩ | ⟨_, _, he⟩ <;> rw [he] at h
  · exact runWord_draw h
  · cases h
    rfl
  · cases h
    rfl

/-- A release of reset draws afresh, for the same instance; every other event leaves the draw as it is. -/
theorem step_draw_inst {s t : State} (h : step s = .next t) : t.draw.inst = s.draw.inst := by
  rcases step_next_cases h with ⟨_, rfl⟩ | ⟨_, _, rfl⟩ | ⟨_, _, _, rfl⟩ | ⟨_, _, _, rfl⟩ | ⟨_, _, _, _, _, rfl⟩ |
    ⟨_, _, _, rest, _, _, hw⟩
  · rfl
  · rfl
  · rfl
  · rfl
  · rfl
  · rw [hostWrite_draw hw, State.setHost_draw]

theorem stepInstance_draw_inst {j k : Nat} {sys sys' : List State} {s s' : State}
    (h : stepInstance j sys = .next sys') (hs : sys[k]? = some s) (hs' : sys'[k]? = some s') :
    s'.draw.inst = s.draw.inst := by
  by_cases hkj : k = j
  · subst hkj
    rcases stepInstance_next_cases h with ⟨hnone, _⟩ | ⟨u, t, hu, ht, rfl⟩
    · cases hs.symm.trans hnone
    · cases hs.symm.trans hu
      rw [List.getElem?_set_self (List.getElem?_eq_some_iff.1 hs).1] at hs'
      cases hs'
      exact step_draw_inst ht
  · rw [getElem?_stepInstance_ne h hkj, hs] at hs'
    cases hs'
    rfl

/-- Settles O48: an entry of the system is `State.resetInstance` at its place, whose buffers are empty and whose draw bears
that place. -/
theorem instancesStartInReset : Obligations.InstancesStartInReset := by
  refine ⟨length_resetSystem, fun cs k c hc => ?entry, fun cs j k s s' hne hs hs' => ?apart,
    fun _ _ _ _ _ _ => stepInstance_draw_inst⟩
  case entry =>
    have hentry : (resetSystem cs)[k]? = some (State.resetInstance k c) := by
      rw [getElem?_resetSystem, hc, Option.map_some]
    exact ⟨_, hentry, rfl, ok_resetInstance k,
      fun i => ⟨Memory.read_nil _ _ i, Memory.read_nil _ _ i, Memory.read_nil _ _ i⟩⟩
  case apart =>
    rwa [draw_inst_of_getElem?_resetSystem hs, draw_inst_of_getElem?_resetSystem hs']

end Sys2Proof.Machine
end

section
/-! PROOFS. A pending candidate is resolved within N - 1 bytes (O32; spec/70_reset_and_hazards.md R212, spec/10_state.md R38):
each byte lengthens the distance from a fixed position up to `df_push` by one, and after N - 1 of them it is more than a
pending candidate may have. -/

namespace Sys2Proof.Machine

/-! ## The write position along a run of DFR commands -/

@[simp] theorem pushByte_cfg (s : State) (b : Byte) : (s.pushByte b).cfg = s.cfg := by
  obtain ⟨_, _, heq⟩ := exists_pushByte_eq s b
  rw [heq, intake_cfg]

@[simp] theorem pushByte_dfPush (s : State) (b : Byte) : (s.pushByte b).dfPush = nextPos s.cfg s.dfPush := by
  obtain ⟨_, _, heq⟩ := exists_pushByte_eq s b
  rw [heq]
  rfl

theorem foldl_pushByte_cfg (bs : List Byte) (s : State) : (bs.foldl State.pushByte s).cfg = s.cfg := by
  induction bs generalizing s with
  | nil => rfl
  | cons b bs ih => exact (ih (s.pushByte b)).trans (pushByte_cfg s b)

theorem foldl_pushByte_ok {s : State} (hs : s.ok = true) (bs : List Byte) : (bs.foldl State.pushByte s).ok = true := by
  induction bs generalizing s with
  | nil => exact hs
  | cons b bs ih => exact ih (pushByte_ok hs b)

/-- Each byte moves `df_push` one further from any position, short of a full turn (R151). -/
theorem dist_foldl_pushByte {s : State} {p : Byte} (hwf : s.cfg.wf = true) (hp : p.toNat < Params.pmod s.cfg)
    (hpush : s.dfPush.toNat < Params.pmod s.cfg) (bs : List Byte)
    (hturn : dist s.cfg p s.dfPush + bs.length < Params.pmod s.cfg) :
    dist s.cfg p (bs.foldl State.pushByte s).dfPush = dist s.cfg p s.dfPush + bs.length := by
  induction bs generalizing s with
  | nil => rfl
  | cons b bs ih =>
    rw [List.length_cons] at hturn ⊢
    have hnext : dist s.cfg p (nextPos s.cfg s.dfPush) = dist s.cfg p s.dfPush + 1 :=
      dist_nextPos_right hwf p s.dfPush hp hpush (by omega)
    have hrest := ih (s := s.pushByte b)
    simp only [pushByte_cfg, pushByte_dfPush, hnext] at hrest
    rw [List.foldl_cons, hrest hwf hp (nextPos_lt hwf s.dfPush) (by omega), Nat.add_right_comm, Nat.add_assoc]

/-- Settles O32: were the same candidate still pending, it would hold the N - 1 bytes of the run besides the one or more it
held before, and the invariant at the end of the run allows only N - 1 in all. -/
theorem pendingCandidateResolves : Obligations.PendingCandidateResolves := by
  intro s t bs hs hst hlen ht
  rw [runExec_dfr] at ht
  cases ht
  by_contra! hstays
  obtain ⟨hpending, hstart⟩ := hstays
  obtain ⟨hc, hroom⟩ := Candidate.of_ok hs hst
  obtain ⟨_, hroom'⟩ := Candidate.of_ok (foldl_pushByte_ok hs bs) hpending
  have hpos := hc.avail_pos
  have hgrown : dist s.cfg s.dfStart (bs.foldl State.pushByte s).dfPush = s.avail + bs.length :=
    dist_foldl_pushByte hc.window.wf hc.window.pos_lt hc.window.push_lt bs (by
      rw [← State.avail, Params.pmod]
      omega)
  rw [State.avail, foldl_pushByte_cfg, hstart, hgrown] at hroom'
  omega

end Sys2Proof.Machine
end

section
/-! PROOFS. The events of the reset line, and host accesses while it is asserted (O43, O44; spec/70_reset_and_hazards.md R210,
R211; log entries 4 and 7). -/

namespace Sys2Proof.Machine

theorem perform_assertReset (s : State) : perform .assertReset s = .next { s with inReset := true } := rfl

theorem perform_releaseReset {s : State} (hr : s.inReset = true) : perform .releaseReset s = .next s.takeReset := by
  rw [perform, hr, cond_true]

theorem perform_read_of_inReset {s : State} (hr : s.inReset = true) (n : Nat) (a : Addr) :
    perform (.read n a) s = .refused .hostAccessDuringReset := by
  rw [perform, hr, cond_true]

theorem perform_write_of_inReset {s : State} (hr : s.inReset = true) (n : Nat) (a : Addr) (v : HostValue) :
    perform (.write n a v) s = .refused .hostAccessDuringReset := by
  rw [perform, hr, cond_true]

/-- Settles O43: the step is the release of reset, on the state without its first event. -/
theorem releaseOfResetRestoresState : Obligations.ReleaseOfResetRestoresState := by
  intro s rest hr hh
  refine ⟨(s.setHost rest).takeReset, ?_, State.takeReset_eq _⟩
  rw [step_of_host_cons hh, perform_releaseReset ((State.setHost_inReset s rest).trans hr)]

/-- Settles O44: the three events, each on the state without its first event. -/
theorem hostAccessDuringResetIsRefused : Obligations.HostAccessDuringResetIsRefused := by
  refine ⟨fun s n a rest hr hh => ?read, fun s n a v rest hr hh => ?write, fun s rest hh => ?assert⟩ <;>
    rw [step_of_host_cons hh]
  case read => exact perform_read_of_inReset ((State.setHost_inReset s rest).trans hr) n a
  case write => exact perform_write_of_inReset ((State.setHost_inReset s rest).trans hr) n a v
  case assert => exact perform_assertReset (s.setHost rest)

end Sys2Proof.Machine
end
